-- ==== Sys2Proof/Word.lean ====
section
/-! DEFINITION. The bit-vector types of the engine (00_scope.md R9 to R13, R16, R17).
Every value is unsigned (R18), so `BitVec` addition and subtraction are the arithmetic "modulo 256" of R18 and R96. -/

namespace Sys2Proof

/-- A general register, a timer, a byte of memory, a long constant (R9, R13, R45, R63). -/
abbrev Byte := BitVec 8

/-- An instruction word, `PC`, `I`, a call-stack entry, an address of a fault record (R10, R11, R12, R16, R127). -/
abbrev Word16 := BitVec 16

/-- The address operand `NNN` (30_encoding.md R63). -/
abbrev Addr12 := BitVec 12

/-- A register index `X` or `Y`, the short constant `N`, a key value (R25, R63, R133). -/
abbrev Nibble := BitVec 4

end Sys2Proof
end

