-- ==== Sys2Proof/Syntax.lean ====
section
/-! DEFINITION. The instructions: one constructor per row of spec/opcode_table.json (30_encoding.md R69, R70).
The operands are those the instruction's rule names; bits a rule calls ignored are no operand (R66, R67). -/

namespace Sys2Proof

/-- An instruction with its operand fields (30_encoding.md R61): `x`, `y` register indexes, `nnn` address, `nn` long
constant, `n` short constant. -/
inductive Instr where
  /-- `00E0`, R86. -/
  | clearScreen
  /-- `00EE`, R87. -/
  | ret
  /-- `1NNN`, R88. -/
  | jump (nnn : Addr12)
  /-- `2NNN`, R89. -/
  | call (nnn : Addr12)
  /-- `3XNN`, R91. -/
  | skipEqConst (x : Nibble) (nn : Byte)
  /-- `4XNN`, R92. -/
  | skipNeqConst (x : Nibble) (nn : Byte)
  /-- `5XY0`, R93. -/
  | skipEqReg (x y : Nibble)
  /-- `6XNN`, R98. -/
  | loadConst (x : Nibble) (nn : Byte)
  /-- `7XNN`, R99. -/
  | addConst (x : Nibble) (nn : Byte)
  /-- `8XY0`, R100. -/
  | copy (x y : Nibble)
  /-- `8XY1`, R101. -/
  | orReg (x y : Nibble)
  /-- `8XY2`, R102. -/
  | andReg (x y : Nibble)
  /-- `8XY3`, R103. -/
  | xorReg (x y : Nibble)
  /-- `8XY4`, R104. -/
  | addReg (x y : Nibble)
  /-- `8XY5`, R105. -/
  | subReg (x y : Nibble)
  /-- `8XY6`, R107. -/
  | shiftRight (x y : Nibble)
  /-- `8XY7`, R106. -/
  | subRegReverse (x y : Nibble)
  /-- `8XYE`, R108. -/
  | shiftLeft (x y : Nibble)
  /-- `9XY0`, R94. -/
  | skipNeqReg (x y : Nibble)
  /-- `ANNN`, R110. -/
  | loadIndex (nnn : Addr12)
  /-- `BNNN`, R111. -/
  | jumpOffset (nnn : Addr12)
  /-- `CXNN`, R109. -/
  | randomAnd (x : Nibble) (nn : Byte)
  /-- `DXYN`, R118. -/
  | draw (x y n : Nibble)
  /-- `EX9E`, R119. -/
  | skipKeyPressed (x : Nibble)
  /-- `EXA1`, R120. -/
  | skipKeyNotPressed (x : Nibble)
  /-- `FX07`, R122. -/
  | readDelayTimer (x : Nibble)
  /-- `FX0A`, R121. -/
  | blockOnKey (x : Nibble)
  /-- `FX15`, R123. -/
  | setDelayTimer (x : Nibble)
  /-- `FX18`, R124. -/
  | setSoundTimer (x : Nibble)
  /-- `FX1E`, R112. -/
  | addToIndex (x : Nibble)
  /-- `FX29`, R113. -/
  | loadFontSprite (x : Nibble)
  /-- `FX33`, R114. -/
  | storeBcd (x : Nibble)
  /-- `FX55`, R115. -/
  | storeRegisters (x : Nibble)
  /-- `FX65`, R116. -/
  | loadRegisters (x : Nibble)
  /-- The fallback row (R70, R80): a word that matches none of the 34 rows, kept whole. -/
  | unhandled (w : Word16)
  deriving DecidableEq, Repr

end Sys2Proof
end

