-- ==== Sys2Proof/WellFormed.lean ====
section
/-! DEFINITION. Which terms of `Instr` are instructions: the operand types leave one thing to check, that the word of
`unhandled` really is one (30_encoding.md R70). The check uses the (match, mask) pairs of R69 and not the decoder. -/

namespace Sys2Proof

/-- A row of the opcode map (30_encoding.md R69): the identifier and the (match, mask) pair that selects the row's words. -/
structure OpRow where
  ident : Word16
  pattern : Word16
  mask : Word16
  deriving DecidableEq, Repr

/-- The row selects the word `w`. -/
def OpRow.selects (r : OpRow) (w : Word16) : Bool := w &&& r.mask == r.pattern

/-- Top nibbles 0x0 to 0x2. -/
def flowRows : List OpRow :=
  [⟨0x00E0#16, 0x00E0#16, 0xF0FF#16⟩,
   ⟨0x00EE#16, 0x00EE#16, 0xF0FF#16⟩,
   ⟨0x1000#16, 0x1000#16, 0xF000#16⟩,
   ⟨0x2000#16, 0x2000#16, 0xF000#16⟩]

/-- Top nibbles 0x3 to 0x5 and 0x9. -/
def skipRows : List OpRow :=
  [⟨0x3000#16, 0x3000#16, 0xF000#16⟩,
   ⟨0x4000#16, 0x4000#16, 0xF000#16⟩,
   ⟨0x5000#16, 0x5000#16, 0xF000#16⟩,
   ⟨0x9000#16, 0x9000#16, 0xF000#16⟩]

/-- Top nibbles 0x6, 0x7 and 0xA to 0xD. -/
def loadRows : List OpRow :=
  [⟨0x6000#16, 0x6000#16, 0xF000#16⟩,
   ⟨0x7000#16, 0x7000#16, 0xF000#16⟩,
   ⟨0xA000#16, 0xA000#16, 0xF000#16⟩,
   ⟨0xB000#16, 0xB000#16, 0xF000#16⟩,
   ⟨0xC000#16, 0xC000#16, 0xF000#16⟩,
   ⟨0xD000#16, 0xD000#16, 0xF000#16⟩]

/-- Top nibble 0x8. -/
def aluRows : List OpRow :=
  [⟨0x8000#16, 0x8000#16, 0xF00F#16⟩,
   ⟨0x8001#16, 0x8001#16, 0xF00F#16⟩,
   ⟨0x8002#16, 0x8002#16, 0xF00F#16⟩,
   ⟨0x8003#16, 0x8003#16, 0xF00F#16⟩,
   ⟨0x8004#16, 0x8004#16, 0xF00F#16⟩,
   ⟨0x8005#16, 0x8005#16, 0xF00F#16⟩,
   ⟨0x8006#16, 0x8006#16, 0xF00F#16⟩,
   ⟨0x8007#16, 0x8007#16, 0xF00F#16⟩,
   ⟨0x800E#16, 0x800E#16, 0xF00F#16⟩]

/-- Top nibble 0xE. -/
def keyRows : List OpRow :=
  [⟨0xE09E#16, 0xE09E#16, 0xF0FF#16⟩,
   ⟨0xE0A1#16, 0xE0A1#16, 0xF0FF#16⟩]

/-- Top nibble 0xF. -/
def systemRows : List OpRow :=
  [⟨0xF007#16, 0xF007#16, 0xF0FF#16⟩,
   ⟨0xF00A#16, 0xF00A#16, 0xF0FF#16⟩,
   ⟨0xF015#16, 0xF015#16, 0xF0FF#16⟩,
   ⟨0xF018#16, 0xF018#16, 0xF0FF#16⟩,
   ⟨0xF01E#16, 0xF01E#16, 0xF0FF#16⟩,
   ⟨0xF029#16, 0xF029#16, 0xF0FF#16⟩,
   ⟨0xF033#16, 0xF033#16, 0xF0FF#16⟩,
   ⟨0xF055#16, 0xF055#16, 0xF0FF#16⟩,
   ⟨0xF065#16, 0xF065#16, 0xF0FF#16⟩]

/-- The 34 rows of the opcode map (R69), in groups. -/
def opcodeMap : List OpRow :=
  flowRows ++ skipRows ++ loadRows ++ aluRows ++ keyRows ++ systemRows

/-- Some row of the opcode map selects `w`. -/
def handled (w : Word16) : Bool := opcodeMap.any fun r => r.selects w

/-- `unhandled` carries a word that no row selects (R70); every other term is an instruction, whatever its operands. -/
def Instr.wellFormed : Instr → Bool
  | .unhandled w => !handled w
  | .clearScreen | .ret | .jump _ | .call _ | .skipEqConst _ _ | .skipNeqConst _ _ | .skipEqReg _ _ | .loadConst _ _
  | .addConst _ _ | .copy _ _ | .orReg _ _ | .andReg _ _ | .xorReg _ _ | .addReg _ _ | .subReg _ _ | .shiftRight _ _
  | .subRegReverse _ _ | .shiftLeft _ _ | .skipNeqReg _ _ | .loadIndex _ | .jumpOffset _ | .randomAnd _ _ | .draw _ _ _
  | .skipKeyPressed _ | .skipKeyNotPressed _ | .readDelayTimer _ | .blockOnKey _ | .setDelayTimer _ | .setSoundTimer _
  | .addToIndex _ | .loadFontSprite _ | .storeBcd _ | .storeRegisters _ | .loadRegisters _ => true

end Sys2Proof
end

