-- ==== Sys2Proof/Decode.lean ====
section
/-! DEFINITION. The instruction decoder (30_encoding.md), total on words and on bytes, and after it the encoder.
Decoding is pure: it reads the word alone (R68, R72). -/

namespace Sys2Proof

/-- `w[15:12]`, the top nibble (30_encoding.md R60). -/
def topNibble (w : Word16) : Nibble := w.extractLsb' 12 4

/-- `NNN = w[11:0]` (R61). -/
def fieldNNN (w : Word16) : Addr12 := w.extractLsb' 0 12

/-- `X = w[11:8]` (R61). -/
def fieldX (w : Word16) : Nibble := w.extractLsb' 8 4

/-- `Y = w[7:4]` (R61). -/
def fieldY (w : Word16) : Nibble := w.extractLsb' 4 4

/-- `NN = w[7:0]` (R61). -/
def fieldNN (w : Word16) : Byte := w.extractLsb' 0 8

/-- `N = w[3:0]` (R61). -/
def fieldN (w : Word16) : Nibble := w.extractLsb' 0 4

/-- The opcode identifier: the word masked as its top nibble says (R64). -/
def ident (w : Word16) : Word16 :=
  if topNibble w = 0x8#4 then w &&& 0xF00F#16
  else if topNibble w = 0xE#4 then w &&& 0xF0FF#16
  else if topNibble w = 0xF#4 then
    if fieldY w = 0x0#4 then w &&& 0xF00F#16 else w &&& 0xF0FF#16
  else if topNibble w = 0x0#4 then w &&& 0x00FF#16
  else w &&& 0xF000#16

/-- The instruction a word stands for: the row of R69 with the word's identifier, the operands from the raw word (R61),
and an identifier with no row unhandled (R70). No word is refused (R68, R71). -/
def decode (w : Word16) : Instr :=
  match ident w with
  | 0x00E0#16 => .clearScreen
  | 0x00EE#16 => .ret
  | 0x1000#16 => .jump (fieldNNN w)
  | 0x2000#16 => .call (fieldNNN w)
  | 0x3000#16 => .skipEqConst (fieldX w) (fieldNN w)
  | 0x4000#16 => .skipNeqConst (fieldX w) (fieldNN w)
  | 0x5000#16 => .skipEqReg (fieldX w) (fieldY w)
  | 0x6000#16 => .loadConst (fieldX w) (fieldNN w)
  | 0x7000#16 => .addConst (fieldX w) (fieldNN w)
  | 0x8000#16 => .copy (fieldX w) (fieldY w)
  | 0x8001#16 => .orReg (fieldX w) (fieldY w)
  | 0x8002#16 => .andReg (fieldX w) (fieldY w)
  | 0x8003#16 => .xorReg (fieldX w) (fieldY w)
  | 0x8004#16 => .addReg (fieldX w) (fieldY w)
  | 0x8005#16 => .subReg (fieldX w) (fieldY w)
  | 0x8006#16 => .shiftRight (fieldX w) (fieldY w)
  | 0x8007#16 => .subRegReverse (fieldX w) (fieldY w)
  | 0x800E#16 => .shiftLeft (fieldX w) (fieldY w)
  | 0x9000#16 => .skipNeqReg (fieldX w) (fieldY w)
  | 0xA000#16 => .loadIndex (fieldNNN w)
  | 0xB000#16 => .jumpOffset (fieldNNN w)
  | 0xC000#16 => .randomAnd (fieldX w) (fieldNN w)
  | 0xD000#16 => .draw (fieldX w) (fieldY w) (fieldN w)
  | 0xE09E#16 => .skipKeyPressed (fieldX w)
  | 0xE0A1#16 => .skipKeyNotPressed (fieldX w)
  | 0xF007#16 => .readDelayTimer (fieldX w)
  | 0xF00A#16 => .blockOnKey (fieldX w)
  | 0xF015#16 => .setDelayTimer (fieldX w)
  | 0xF018#16 => .setSoundTimer (fieldX w)
  | 0xF01E#16 => .addToIndex (fieldX w)
  | 0xF029#16 => .loadFontSprite (fieldX w)
  | 0xF033#16 => .storeBcd (fieldX w)
  | 0xF055#16 => .storeRegisters (fieldX w)
  | 0xF065#16 => .loadRegisters (fieldX w)
  | _ => .unhandled w

/-- Why a string of bytes gives no instruction. -/
inductive DecodeError where
  /-- Fewer than the two bytes of an instruction (R60). The fetch never meets it: it always reads two bytes. -/
  | truncated
  deriving DecidableEq, Repr

/-- The first instruction of a string of bytes, high byte first (20_memory.md R49), and the bytes after it. -/
def decodeBytes : List Byte → Except DecodeError (Instr × List Byte)
  | hi :: lo :: rest => .ok (decode (hi ++ lo), rest)
  | [_] | [] => .error .truncated

/-- The word of the format of R60 with the nibbles `t`, `x`, `y`, `n`. -/
def formXYN (t x y n : Nibble) : Word16 := t ++ x ++ y ++ n

/-- The word of the format of R60 with the nibbles `t`, `x` and the low byte `nn`. -/
def formXNN (t x : Nibble) (nn : Byte) : Word16 := t ++ x ++ nn

/-- The word of the format of R60 with the top nibble `t` and the address `nnn`. -/
def formNNN (t : Nibble) (nnn : Addr12) : Word16 := t ++ nnn

/-- The word of an instruction, in the canonical spelling of its pattern (R62, R69): bits the decoder ignores are 0. -/
def encode : Instr → Word16
  | .clearScreen => formXYN 0x0#4 0x0#4 0xE#4 0x0#4
  | .ret => formXYN 0x0#4 0x0#4 0xE#4 0xE#4
  | .jump nnn => formNNN 0x1#4 nnn
  | .call nnn => formNNN 0x2#4 nnn
  | .skipEqConst x nn => formXNN 0x3#4 x nn
  | .skipNeqConst x nn => formXNN 0x4#4 x nn
  | .skipEqReg x y => formXYN 0x5#4 x y 0x0#4
  | .loadConst x nn => formXNN 0x6#4 x nn
  | .addConst x nn => formXNN 0x7#4 x nn
  | .copy x y => formXYN 0x8#4 x y 0x0#4
  | .orReg x y => formXYN 0x8#4 x y 0x1#4
  | .andReg x y => formXYN 0x8#4 x y 0x2#4
  | .xorReg x y => formXYN 0x8#4 x y 0x3#4
  | .addReg x y => formXYN 0x8#4 x y 0x4#4
  | .subReg x y => formXYN 0x8#4 x y 0x5#4
  | .shiftRight x y => formXYN 0x8#4 x y 0x6#4
  | .subRegReverse x y => formXYN 0x8#4 x y 0x7#4
  | .shiftLeft x y => formXYN 0x8#4 x y 0xE#4
  | .skipNeqReg x y => formXYN 0x9#4 x y 0x0#4
  | .loadIndex nnn => formNNN 0xA#4 nnn
  | .jumpOffset nnn => formNNN 0xB#4 nnn
  | .randomAnd x nn => formXNN 0xC#4 x nn
  | .draw x y n => formXYN 0xD#4 x y n
  | .skipKeyPressed x => formXNN 0xE#4 x 0x9E#8
  | .skipKeyNotPressed x => formXNN 0xE#4 x 0xA1#8
  | .readDelayTimer x => formXNN 0xF#4 x 0x07#8
  | .blockOnKey x => formXNN 0xF#4 x 0x0A#8
  | .setDelayTimer x => formXNN 0xF#4 x 0x15#8
  | .setSoundTimer x => formXNN 0xF#4 x 0x18#8
  | .addToIndex x => formXNN 0xF#4 x 0x1E#8
  | .loadFontSprite x => formXNN 0xF#4 x 0x29#8
  | .storeBcd x => formXNN 0xF#4 x 0x33#8
  | .storeRegisters x => formXNN 0xF#4 x 0x55#8
  | .loadRegisters x => formXNN 0xF#4 x 0x65#8
  | .unhandled w => w

/-- The two bytes of an instruction as memory holds them, high byte first (20_memory.md R49). -/
def encodeBytes (i : Instr) : List Byte := [(encode i).extractLsb' 8 8, (encode i).extractLsb' 0 8]

/-- The decoder on the table's numbering of a row's bits: the low `nbits` bits of `w`, everything above them 0, laid out
as the two bytes the hardware stores. -/
def decodeTableWord (nbits w : Nat) : Option Instr :=
  let word : Word16 := BitVec.ofNat 16 (w % 2 ^ nbits)
  match decodeBytes [word.extractLsb' 8 8, word.extractLsb' 0 8] with
  | .ok (i, _) => some i
  | .error _ => none

end Sys2Proof
end

