-- ==== Sys2Proof/Machine/Flags.lean ====
section
/-! DEFINITION. The values of the flag register `VF` (10_state.md R27, 42_alu.md R96). -/

namespace Sys2Proof.Machine

/-- The flag register, general register 15 (10_state.md R27). -/
def vF : Nibble := 0xF#4

/-- A condition as a flag: `c ? 1 : 0`. -/
def flag (c : Bool) : Byte := if c then 1 else 0

/-- The carry of `a + b`: 1 exactly when `a + b > 255` (R96). -/
def carryFlag (a b : Byte) : Byte := flag (decide (a.toNat + b.toNat > 255))

/-- The borrow of `a - b`: 1 exactly when `a < b` (R96). It is the borrow and not its complement
(93_implementation_defined.md, "8XY5 flag sense"). -/
def borrowFlag (a b : Byte) : Byte := flag (decide (a.toNat < b.toNat))

/-- The bit a shift to the right moves out, bit 0 (42_alu.md R107). -/
def lowBitFlag (a : Byte) : Byte := a &&& 1

/-- The bit a shift to the left moves out, bit 7 (42_alu.md R108). -/
def highBitFlag (a : Byte) : Byte := flag (a.getLsbD 7)

end Sys2Proof.Machine
end

