-- ==== Sys2Proof/Config.lean ====
section
/-! DEFINITION. What an implementation of the engine fixes (the parameters of 00_scope.md section 3), and the free values:
the answers of the collaborators outside the block (60_exceptions.md R139 to R143). -/

namespace Sys2Proof.Config

/-- `SHIFT_SOURCE` (00_scope.md R14): the register the two shift instructions read. -/
inductive ShiftSource where
  | vy
  | vx
  deriving DecidableEq, Repr

/-- `STACK_DEPTH` (00_scope.md R12): its legal values are the integers 12 to 16. -/
inductive StackDepth where
  | d12
  | d13
  | d14
  | d15
  | d16
  deriving DecidableEq, Repr

/-- The capacity of the call stack, in entries. -/
def StackDepth.entries : StackDepth → Nat
  | .d12 => 12
  | .d13 => 13
  | .d14 => 14
  | .d15 => 15
  | .d16 => 16

/-- The parameters of one engine (00_scope.md section 3). Every value of the type is legal, and every legal value is one.
`fontBase` is 0x000 to 0x1B0 (R15). -/
structure Params where
  stackDepth  : StackDepth
  shiftSource : ShiftSource
  fontBase    : Fin 0x1B1
  deriving DecidableEq, Repr

/-- The default values of R12, R14 and R15. -/
def Params.default : Params := ⟨.d16, .vy, 0x050⟩

/-- FREE VALUE (R109, R143, D23; entry 2): the byte `Rand()` gives when it is the `n`-th call on a port. -/
opaque randByte : Nat → Byte

/-- FREE VALUE (R119, R141, D9; entry 2): the answer to `KeyPressed(k)` when it is the `n`-th call on a port. -/
opaque keyPressed : (n : Nat) → (k : Byte) → Bool

/-- FREE VALUE (R118, R140, D24; entry 2): the collision answer to `Display.draw(x, y, length bytes, bytes)` when it is the
`n`-th call on a port. -/
opaque collision : (n : Nat) → (x y : Byte) → (bytes : List Byte) → Bool

end Sys2Proof.Config
end

