-- ==== Sys2Proof/Machine/State.lean ====
section
/-! DEFINITION. The state of one engine as plain data: the tuple of 10_state.md R22, and beside it three fields of the
model's own (the parameters, the calls on the collaborator ports, the host's coming operations). -/

namespace Sys2Proof.Machine

/-- The three kinds of fault the engine raises (60_exceptions.md R125). -/
inductive FaultKind where
  | stackOverflow
  | stackUnderflow
  | memoryOutOfRange
  deriving DecidableEq, Repr

/-- A fault record (60_exceptions.md R127): `instrAddr` is where the faulting instruction was fetched from, `addr` the
lowest out-of-range address of a `memoryOutOfRange` and none for the other kinds. -/
structure FaultRecord where
  kind      : FaultKind
  instrAddr : Word16
  addr      : Option Word16
  deriving DecidableEq, Repr

/-- One call of the core on a collaborator port (60_exceptions.md R139). -/
inductive PortCall where
  /-- `Display.clear()`. -/
  | clear
  /-- `Display.draw(x, y, n, bytes)`. -/
  | draw (x y : Byte) (n : Nibble) (bytes : List Byte)
  /-- `KeyPressed(k)`. -/
  | keyPressed (k : Byte)
  /-- `Rand()`. -/
  | rand
  deriving DecidableEq, Repr

/-- An operation of the host on the engine (60_exceptions.md R139, R144). -/
inductive HostOp where
  | tick
  | timerTick
  | keyEvent (k : Nibble)
  | reset
  | loadRom (bytes : List Byte)
  deriving DecidableEq, Repr

/-- The bytes of memory that differ from the reset content, in the canonical form of `Memory.wf`. -/
abbrev Memory := List Host.Cell

/-- The state of one engine. -/
structure State where
  /-- `V[0]` to `V[15]` (R25). -/
  v     : Vector Byte 16
  /-- The index register `I` (R29). -/
  i     : Word16
  /-- The program counter `PC` (R31). -/
  pc    : Word16
  /-- The pending-skip flag (R35). -/
  skip  : Bool
  /-- The call stack, the top entry first (R37). -/
  stack : List Word16
  /-- The delay timer `DT` (R40). -/
  dt    : Byte
  /-- The sound timer `ST` (R40). -/
  st    : Byte
  /-- Memory (R45). -/
  mem   : Memory
  /-- The key-wait latch (R41). -/
  wait  : Option Nibble
  /-- The fault latch (R42). -/
  fault : Option FaultRecord
  /-- The model's own: the parameters this engine was built with (00_scope.md section 3; entry 1). -/
  params   : Config.Params
  /-- The model's own: the calls made on the ports, the latest first; its length indexes the free values (R139; entry 2). -/
  ports    : List PortCall
  /-- The model's own: the operations the host will invoke, the next first (R144; entry 3). -/
  schedule : List HostOp
  deriving DecidableEq, Repr

/-- The faults that stop the model. There are none: a fault of this hardware is a latch that a tick sets and that later
operations see (60_exceptions.md R128, R131), so a tick that faults has a next state (entry 4). Safe: nothing raises it. -/
inductive Fault : Type
  deriving DecidableEq, Repr

/-- The refusals of the model. -/
inductive Refusal where
  /-- Raised by an arm of `exec` whose instruction has no meaning yet, with its mnemonic. Safe: the run stops. No arm raises
  it now. -/
  | notModelled (mnemonic : String)
  deriving DecidableEq, Repr

/-- The machine right after reset (10_state.md R44, 70_reset_and_hazards.md R148), with the default parameters of
00_scope.md R12, R14, R15. Memory lists nothing: every byte has its reset content. -/
def State.reset : State where
  v := Vector.replicate 16 0
  i := 0
  pc := 0x200
  skip := false
  stack := []
  dt := 0
  st := 0
  mem := []
  wait := none
  fault := none
  params := Config.Params.default
  ports := []
  schedule := []

end Sys2Proof.Machine
end

