-- ==== Sys2Proof/Machine/Memory.lean ====
section
/-! DEFINITION. Memory as a list of the bytes that differ from the reset content (20_memory.md R45, R47, R56). -/

namespace Sys2Proof.Machine

/-- `MEM_SIZE` (00_scope.md R7). -/
def memSize : Nat := 4096

/-- `ROM_START` (00_scope.md R8). -/
def romStart : Nat := 0x200

/-- Glyphs 0 to 3 of `FONT_DATA` (70_reset_and_hazards.md R150). -/
def glyphs0to3 : List Byte :=
  [0xF0, 0x90, 0x90, 0x90, 0xF0, 0x20, 0x60, 0x20, 0x20, 0x70,
   0xF0, 0x10, 0xF0, 0x80, 0xF0, 0xF0, 0x10, 0xF0, 0x10, 0xF0]

/-- Glyphs 4 to 7 of `FONT_DATA` (R150). -/
def glyphs4to7 : List Byte :=
  [0x90, 0x90, 0xF0, 0x10, 0x10, 0xF0, 0x80, 0xF0, 0x10, 0xF0,
   0xF0, 0x80, 0xF0, 0x90, 0xF0, 0xF0, 0x10, 0x20, 0x40, 0x40]

/-- Glyphs 8 to B of `FONT_DATA` (R150). -/
def glyphs8toB : List Byte :=
  [0xF0, 0x90, 0xF0, 0x90, 0xF0, 0xF0, 0x90, 0xF0, 0x10, 0xF0,
   0xF0, 0x90, 0xF0, 0x90, 0x90, 0xE0, 0x90, 0xE0, 0x90, 0xE0]

/-- Glyphs C to F of `FONT_DATA` (R150). -/
def glyphsCtoF : List Byte :=
  [0xF0, 0x80, 0x80, 0x80, 0xF0, 0xE0, 0x90, 0x90, 0x90, 0xE0,
   0xF0, 0x80, 0xF0, 0x80, 0xF0, 0xF0, 0x80, 0xF0, 0x80, 0x80]

/-- `FONT_DATA` (R150): glyph `n` at bytes `5*n` to `5*n + 4`. -/
def fontData : List Byte := glyphs0to3 ++ glyphs4to7 ++ glyphs8toB ++ glyphsCtoF

/-- What an address that memory does not list reads as: its reset content, `FONT_DATA` from `FONT_BASE` on and 0x00
elsewhere (R148; entry 6). -/
def Memory.unlisted (fontBase a : Nat) : Byte :=
  if fontBase ≤ a then fontData.getD (a - fontBase) 0 else 0

/-- The byte listed at an address. -/
def Memory.lookup : Memory → Nat → Option Byte
  | [], _ => none
  | (k, b) :: m, a => if k = a then some b else Memory.lookup m a

/-- The byte at an address. -/
def Memory.read (fontBase : Nat) (m : Memory) (a : Nat) : Byte :=
  (m.lookup a).getD (Memory.unlisted fontBase a)

/-- List the byte `b` at `a`, addresses rising. -/
def Memory.put (a : Nat) (b : Byte) : Memory → Memory
  | [] => [(a, b)]
  | (k, c) :: m =>
    if a < k then (a, b) :: (k, c) :: m
    else if a = k then (a, b) :: m
    else (k, c) :: Memory.put a b m

/-- List no byte at `a`. -/
def Memory.drop (a : Nat) (m : Memory) : Memory := m.filter fun c => c.1 ≠ a

/-- Write one byte: the list afterwards is again the canonical one. -/
def Memory.write (fontBase a : Nat) (b : Byte) (m : Memory) : Memory :=
  if b = Memory.unlisted fontBase a then m.drop a else m.put a b

/-- The canonical form: addresses strictly rising and below 4096, and no byte listed that an unlisted address reads as. -/
abbrev Memory.wf (fontBase : Nat) (m : Memory) : Prop :=
  m.Pairwise (fun c d => c.1 < d.1) ∧ ∀ c ∈ m, c.1 < memSize ∧ c.2 ≠ Memory.unlisted fontBase c.1

end Sys2Proof.Machine
end

