-- ==== Sys2Proof/Machine/Operands.lean ====
section
/-! DEFINITION. How an operand becomes a value (30_encoding.md R63), and the values computed from operands that more than
one instruction or rule names. -/

namespace Sys2Proof.Machine

/-- `zext_16(NNN)` (30_encoding.md R63). -/
def zext16 (nnn : Addr12) : Word16 := nnn.setWidth 16

/-- A byte as a 16-bit summand of an address computation (00_scope.md R18). -/
def byte16 (b : Byte) : Word16 := b.setWidth 16

/-- A key value zero-extended to a register (60_exceptions.md R133). -/
def keyByte (k : Nibble) : Byte := k.setWidth 8

/-- The operand of a shift: `V[Y]`, or `V[X]` under `SHIFT_SOURCE = VX` (42_alu.md R107, R108). -/
def shiftOperand (source : Config.ShiftSource) (vx vy : Byte) : Byte :=
  match source with
  | .vy => vy
  | .vx => vx

/-- `(I + V[X]) mod 4096` (43_index_memory.md R112). -/
def indexSum (i : Word16) (b : Byte) : Word16 := (i + byte16 b) &&& 0xFFF

/-- The address of the glyph of a byte's low nibble, `FONT_BASE + 5 * (V[X] & 0xF)` (43_index_memory.md R113). -/
def glyphAddr (fontBase : Nat) (b : Byte) : Word16 :=
  BitVec.ofNat 16 (fontBase + 5 * (b &&& 0xF).toNat)

/-- The hundreds, tens and units digits of a byte (43_index_memory.md R114). -/
def bcdDigits (b : Byte) : List Byte :=
  [BitVec.ofNat 8 (b.toNat / 100), BitVec.ofNat 8 (b.toNat / 10 % 10), BitVec.ofNat 8 (b.toNat % 10)]

end Sys2Proof.Machine
end

