-- ==== Sys2Proof/Machine/Ops.lean ====
section
/-! DEFINITION. The named operations over the state: registers, memory, the call stack, the ports, and raising a fault.
The meanings of the instructions are written over these. -/

namespace Sys2Proof.Machine

/-! ### Registers -/

/-- `V[x]` (10_state.md R25). -/
def State.getV (s : State) (x : Nibble) : Byte := s.v[x.toNat]'x.isLt

/-- `V[x] <- b` (10_state.md R25). -/
def State.setV (s : State) (x : Nibble) (b : Byte) : State := { s with v := s.v.set x.toNat b x.isLt }

/-- `I <- a`. -/
def State.setI (s : State) (a : Word16) : State := { s with i := a }

/-- `PC <- a`. -/
def State.setPc (s : State) (a : Word16) : State := { s with pc := a }

/-- `skip <- c`. -/
def State.setSkip (s : State) (c : Bool) : State := { s with skip := c }

/-- `DT <- b`. -/
def State.setDt (s : State) (b : Byte) : State := { s with dt := b }

/-- `ST <- b`. -/
def State.setSt (s : State) (b : Byte) : State := { s with st := b }

/-- `wait <- w`. -/
def State.setWait (s : State) (w : Option Nibble) : State := { s with wait := w }

/-- The flag first, the result second (42_alu.md R97): with `x = 15` the result stays in `VF`. -/
def State.setFlagResult (s : State) (x : Nibble) (f result : Byte) : State := (s.setV vF f).setV x result

/-- The first `n` general registers, `V[0]` first. -/
def State.getRegs (s : State) (n : Nat) : List Byte :=
  (List.range n).map fun k => s.getV (BitVec.ofNat 4 k)

/-- `V[k] <- b` for each byte `b` of a list, at rising indexes from `k` on. -/
def State.setRegs (s : State) (k : Nat) : List Byte → State
  | [] => s
  | b :: bs => (s.setV (BitVec.ofNat 4 k) b).setRegs (k + 1) bs

/-! ### Memory -/

/-- `MemRead(a, 1)` (00_scope.md R19). -/
def State.readByte (s : State) (a : Nat) : Byte := s.mem.read s.params.fontBase.val a

/-- `MemWrite(a, 1, b)` (00_scope.md R19). -/
def State.writeByte (s : State) (a : Nat) (b : Byte) : State :=
  { s with mem := s.mem.write s.params.fontBase.val a b }

/-- The bytes at `a` to `a + n - 1`, in rising order (20_memory.md R50). -/
def State.readBytes (s : State) (a n : Nat) : List Byte := (List.range n).map fun k => s.readByte (a + k)

/-- One-byte writes at rising addresses from `a` on (20_memory.md R50). -/
def State.writeBytes (s : State) (a : Nat) : List Byte → State
  | [] => s
  | b :: bs => (s.writeByte a b).writeBytes (a + 1) bs

/-- `MemRead(a, 2)`, the big-endian word at `a` (20_memory.md R49). -/
def State.readWord (s : State) (a : Nat) : Word16 := s.readByte a ++ s.readByte (a + 1)

/-- The lowest out-of-range address of an access of `n` bytes at `a`, none where every byte is in range; the addresses are
unbounded integers (20_memory.md R52, R53). The first out-of-range one is `max(a, 0x1000)` (60_exceptions.md R126). -/
def outOfRange (a : Word16) (n : Nat) : Option Word16 :=
  if n = 0 ∨ a.toNat + n ≤ memSize then none else some (if a.toNat < memSize then 0x1000 else a)

/-! ### Taking a fault, and the way out of it -/

/-- `raise Fault(kind, addr)` (60_exceptions.md R128): the latch is set and nothing else changes. -/
def State.raise (s : State) (kind : FaultKind) (instrAddr : Word16) (addr : Option Word16) : State :=
  { s with fault := some ⟨kind, instrAddr, addr⟩ }

/-- A fault of the execute step, during which `PC` holds the fetch address plus 2 (40_cycle.md R79, R81). -/
def State.raiseExec (s : State) (kind : FaultKind) (addr : Option Word16) : State :=
  s.raise kind (s.pc - 2) addr

/-- There is no return from a fault; the one way out is the host's `reset` (60_exceptions.md R131), which gives the whole
architectural state its reset value (70_reset_and_hazards.md R148). The engine keeps its parameters, and what has
happened on the ports and what the host does next are not the engine's to reset. -/
def State.hostReset (s : State) : State :=
  { State.reset with params := s.params, ports := s.ports, schedule := s.schedule }

/-- An execute step that accesses `n` bytes at `I`: the check of every address comes before any part of the effect
(20_memory.md R53). -/
def State.accessAtI (s : State) (n : Nat) (effect : State) : State :=
  match outOfRange s.i n with
  | some bad => s.raiseExec .memoryOutOfRange (some bad)
  | none => effect

/-! ### The call stack -/

/-- `Push(v)` and, where it does not overflow, `PC <- target` (10_state.md R38, 41_control.md R89). -/
def State.pushJump (s : State) (v target : Word16) : State :=
  if s.stack.length < s.params.stackDepth.entries then { s with stack := v :: s.stack, pc := target }
  else s.raiseExec .stackOverflow none

/-- `PC <- Pop()` (10_state.md R39, 41_control.md R87). -/
def State.popJump (s : State) : State :=
  match s.stack with
  | [] => s.raiseExec .stackUnderflow none
  | a :: rest => { s with stack := rest, pc := a }

/-! ### The collaborator ports -/

/-- Record a call on a port (60_exceptions.md R139). -/
def State.callPort (s : State) (c : PortCall) : State := { s with ports := c :: s.ports }

/-- The answer of `Rand()` to a call made now (60_exceptions.md R143). -/
def State.randAnswer (s : State) : Byte := Config.randByte s.ports.length

/-- The answer of `KeyPressed(k)` to a call made now (60_exceptions.md R141). -/
def State.keyAnswer (s : State) (k : Byte) : Bool := Config.keyPressed s.ports.length k

/-- The collision answer of `Display.draw` to a call made now (60_exceptions.md R140). -/
def State.drawAnswer (s : State) (x y : Byte) (bytes : List Byte) : Bool :=
  Config.collision s.ports.length x y bytes

end Sys2Proof.Machine
end

