-- ==== Sys2Proof/Machine/Alu.lean ====
section
/-! DEFINITION. Register loads and ALU operations (42_alu.md). Every operand is read before any register is written
(00_scope.md R20). -/

namespace Sys2Proof.Machine

/-- `6XNN`: `V[X] <- NN` (R98). -/
def execLoadConst (x : Nibble) (nn : Byte) (s : State) : Host.Outcome State Fault Refusal := .next (s.setV x nn)

/-- `7XNN`: `V[X] <- (V[X] + NN) mod 256` (R99). -/
def execAddConst (x : Nibble) (nn : Byte) (s : State) : Host.Outcome State Fault Refusal :=
  .next (s.setV x (s.getV x + nn))

/-- `8XY0`: `V[X] <- V[Y]` (R100). -/
def execCopy (x y : Nibble) (s : State) : Host.Outcome State Fault Refusal := .next (s.setV x (s.getV y))

/-- `8XY1`: `V[X] <- V[X] | V[Y]` (R101). -/
def execOrReg (x y : Nibble) (s : State) : Host.Outcome State Fault Refusal :=
  .next (s.setV x (s.getV x ||| s.getV y))

/-- `8XY2`: `V[X] <- V[X] & V[Y]` (R102). -/
def execAndReg (x y : Nibble) (s : State) : Host.Outcome State Fault Refusal :=
  .next (s.setV x (s.getV x &&& s.getV y))

/-- `8XY3`: `V[X] <- V[X] ^ V[Y]` (R103). -/
def execXorReg (x y : Nibble) (s : State) : Host.Outcome State Fault Refusal :=
  .next (s.setV x (s.getV x ^^^ s.getV y))

/-- `8XY4`: `V[15] <- carry; V[X] <- (V[X] + V[Y]) mod 256` (R104). -/
def execAddReg (x y : Nibble) (s : State) : Host.Outcome State Fault Refusal :=
  let a := s.getV x
  let b := s.getV y
  .next (s.setFlagResult x (carryFlag a b) (a + b))

/-- `8XY5`: `V[15] <- borrow of V[X] - V[Y]; V[X] <- (V[X] - V[Y]) mod 256` (R105). -/
def execSubReg (x y : Nibble) (s : State) : Host.Outcome State Fault Refusal :=
  let a := s.getV x
  let b := s.getV y
  .next (s.setFlagResult x (borrowFlag a b) (a - b))

/-- `8XY7`: `V[15] <- borrow of V[Y] - V[X]; V[X] <- (V[Y] - V[X]) mod 256` (R106). -/
def execSubRegReverse (x y : Nibble) (s : State) : Host.Outcome State Fault Refusal :=
  let a := s.getV x
  let b := s.getV y
  .next (s.setFlagResult x (borrowFlag b a) (b - a))

/-- `8XY6`: `V[15] <- src & 1; V[X] <- src >> 1` (R107). -/
def execShiftRight (x y : Nibble) (s : State) : Host.Outcome State Fault Refusal :=
  let src := shiftOperand s.params.shiftSource (s.getV x) (s.getV y)
  .next (s.setFlagResult x (lowBitFlag src) (src >>> 1))

/-- `8XYE`: `V[15] <- src[7]; V[X] <- (src << 1) mod 256` (R108). -/
def execShiftLeft (x y : Nibble) (s : State) : Host.Outcome State Fault Refusal :=
  let src := shiftOperand s.params.shiftSource (s.getV x) (s.getV y)
  .next (s.setFlagResult x (highBitFlag src) (src <<< 1))

/-- `CXNN`: `r <- Rand(); V[X] <- r & NN` (R109). -/
def execRandomAnd (x : Nibble) (nn : Byte) (s : State) : Host.Outcome State Fault Refusal :=
  .next ((s.callPort .rand).setV x (s.randAnswer &&& nn))

end Sys2Proof.Machine
end

