-- ==== Sys2Proof/Machine/Control.lean ====
section
/-! DEFINITION. Control transfer, conditional skips (41_control.md) and the unhandled words (40_cycle.md R80).
In every meaning `PC` already holds the fetch address plus 2 and `skip` is false (40_cycle.md R79). -/

namespace Sys2Proof.Machine

/-- `00E0`: `Display.clear()` (R86). -/
def execClearScreen (s : State) : Host.Outcome State Fault Refusal := .next (s.callPort .clear)

/-- `00EE`: `PC <- Pop()` (R87). -/
def execRet (s : State) : Host.Outcome State Fault Refusal := .next s.popJump

/-- `1NNN`: `PC <- zext_16(NNN)` (R88). -/
def execJump (nnn : Addr12) (s : State) : Host.Outcome State Fault Refusal := .next (s.setPc (zext16 nnn))

/-- `2NNN`: `Push(PC); PC <- zext_16(NNN)` (R89). -/
def execCall (nnn : Addr12) (s : State) : Host.Outcome State Fault Refusal := .next (s.pushJump s.pc (zext16 nnn))

/-- `3XNN`: `skip <- (V[X] == NN)` (R91). -/
def execSkipEqConst (x : Nibble) (nn : Byte) (s : State) : Host.Outcome State Fault Refusal :=
  .next (s.setSkip (s.getV x == nn))

/-- `4XNN`: `skip <- (V[X] != NN)` (R92). -/
def execSkipNeqConst (x : Nibble) (nn : Byte) (s : State) : Host.Outcome State Fault Refusal :=
  .next (s.setSkip (s.getV x != nn))

/-- `5XY0`: `skip <- (V[X] == V[Y])` (R93). -/
def execSkipEqReg (x y : Nibble) (s : State) : Host.Outcome State Fault Refusal :=
  .next (s.setSkip (s.getV x == s.getV y))

/-- `9XY0`: `skip <- (V[X] != V[Y])` (R94). -/
def execSkipNeqReg (x y : Nibble) (s : State) : Host.Outcome State Fault Refusal :=
  .next (s.setSkip (s.getV x != s.getV y))

/-- An unhandled word: the execute step changes nothing (40_cycle.md R80). -/
def execUnhandled (_w : Word16) (s : State) : Host.Outcome State Fault Refusal := .next s

end Sys2Proof.Machine
end

