-- ==== Sys2Proof/Machine/IndexMemory.lean ====
section
/-! DEFINITION. The index register and memory transfers (43_index_memory.md). No instruction of this file changes `I` as a
side effect of an access. -/

namespace Sys2Proof.Machine

/-- `ANNN`: `I <- zext_16(NNN)` (R110). -/
def execLoadIndex (nnn : Addr12) (s : State) : Host.Outcome State Fault Refusal := .next (s.setI (zext16 nnn))

/-- `BNNN`: `I <- zext_16(NNN) + V[0]`; `PC` is not changed (R111). -/
def execJumpOffset (nnn : Addr12) (s : State) : Host.Outcome State Fault Refusal :=
  .next (s.setI (zext16 nnn + byte16 (s.getV 0)))

/-- `FX1E`: `I <- (I + V[X]) mod 4096` (R112). -/
def execAddToIndex (x : Nibble) (s : State) : Host.Outcome State Fault Refusal :=
  .next (s.setI (indexSum s.i (s.getV x)))

/-- `FX29`: `I <- FONT_BASE + 5 * (V[X] & 0xF)` (R113). -/
def execLoadFontSprite (x : Nibble) (s : State) : Host.Outcome State Fault Refusal :=
  .next (s.setI (glyphAddr s.params.fontBase.val (s.getV x)))

/-- `FX33`: the three digits of `V[X]` at `I`, `I + 1`, `I + 2` (R114). -/
def execStoreBcd (x : Nibble) (s : State) : Host.Outcome State Fault Refusal :=
  .next (s.accessAtI 3 (s.writeBytes s.i.toNat (bcdDigits (s.getV x))))

/-- `FX55`: `V[0]` to `V[X]` at `I` to `I + X` (R115). -/
def execStoreRegisters (x : Nibble) (s : State) : Host.Outcome State Fault Refusal :=
  .next (s.accessAtI (x.toNat + 1) (s.writeBytes s.i.toNat (s.getRegs (x.toNat + 1))))

/-- `FX65`: the bytes at `I` to `I + X` into `V[0]` to `V[X]` (R116). -/
def execLoadRegisters (x : Nibble) (s : State) : Host.Outcome State Fault Refusal :=
  .next (s.accessAtI (x.toNat + 1) (s.setRegs 0 (s.readBytes s.i.toNat (x.toNat + 1))))

end Sys2Proof.Machine
end

