-- ==== Sys2Proof/Machine/IoTimer.lean ====
section
/-! DEFINITION. Display, keypad and timer instructions (44_io_timer.md). -/

namespace Sys2Proof.Machine

/-- `DXYN`: the sprite bytes at `I` go to the display, and `V[15] <- collision` (R118). -/
def execDraw (x y n : Nibble) (s : State) : Host.Outcome State Fault Refusal :=
  let bytes := s.readBytes s.i.toNat n.toNat
  .next (s.accessAtI n.toNat
    ((s.callPort (.draw (s.getV x) (s.getV y) n bytes)).setV vF (flag (s.drawAnswer (s.getV x) (s.getV y) bytes))))

/-- `EX9E`: `skip <- KeyPressed(V[X])` (R119). -/
def execSkipKeyPressed (x : Nibble) (s : State) : Host.Outcome State Fault Refusal :=
  .next ((s.callPort (.keyPressed (s.getV x))).setSkip (s.keyAnswer (s.getV x)))

/-- `EXA1`: `skip <- not KeyPressed(V[X])` (R120). -/
def execSkipKeyNotPressed (x : Nibble) (s : State) : Host.Outcome State Fault Refusal :=
  .next ((s.callPort (.keyPressed (s.getV x))).setSkip (!s.keyAnswer (s.getV x)))

/-- `FX0A`: `wait <- some X` (R121). -/
def execBlockOnKey (x : Nibble) (s : State) : Host.Outcome State Fault Refusal := .next (s.setWait (some x))

/-- `FX07`: `V[X] <- DT` (R122). -/
def execReadDelayTimer (x : Nibble) (s : State) : Host.Outcome State Fault Refusal := .next (s.setV x s.dt)

/-- `FX15`: `DT <- V[X]` (R123). -/
def execSetDelayTimer (x : Nibble) (s : State) : Host.Outcome State Fault Refusal := .next (s.setDt (s.getV x))

/-- `FX18`: `ST <- V[X]` (R124). -/
def execSetSoundTimer (x : Nibble) (s : State) : Host.Outcome State Fault Refusal := .next (s.setSt (s.getV x))

end Sys2Proof.Machine
end

