-- ==== Sys2Proof/Machine/Dispatch.lean ====
section
/-! DEFINITION. Step 4 of the cycle (40_cycle.md R79): the meaning of each instruction. -/

namespace Sys2Proof.Machine

/-- The execute step of an instruction (40_cycle.md R79). -/
def exec (i : Instr) (s : State) : Host.Outcome State Fault Refusal :=
  match i with
  | .clearScreen => Sys2Proof.Machine.execClearScreen s
  | .ret => Sys2Proof.Machine.execRet s
  | .jump nnn => Sys2Proof.Machine.execJump nnn s
  | .call nnn => Sys2Proof.Machine.execCall nnn s
  | .skipEqConst x nn => Sys2Proof.Machine.execSkipEqConst x nn s
  | .skipNeqConst x nn => Sys2Proof.Machine.execSkipNeqConst x nn s
  | .skipEqReg x y => Sys2Proof.Machine.execSkipEqReg x y s
  | .loadConst x nn => Sys2Proof.Machine.execLoadConst x nn s
  | .addConst x nn => Sys2Proof.Machine.execAddConst x nn s
  | .copy x y => Sys2Proof.Machine.execCopy x y s
  | .orReg x y => Sys2Proof.Machine.execOrReg x y s
  | .andReg x y => Sys2Proof.Machine.execAndReg x y s
  | .xorReg x y => Sys2Proof.Machine.execXorReg x y s
  | .addReg x y => Sys2Proof.Machine.execAddReg x y s
  | .subReg x y => Sys2Proof.Machine.execSubReg x y s
  | .shiftRight x y => Sys2Proof.Machine.execShiftRight x y s
  | .subRegReverse x y => Sys2Proof.Machine.execSubRegReverse x y s
  | .shiftLeft x y => Sys2Proof.Machine.execShiftLeft x y s
  | .skipNeqReg x y => Sys2Proof.Machine.execSkipNeqReg x y s
  | .loadIndex nnn => Sys2Proof.Machine.execLoadIndex nnn s
  | .jumpOffset nnn => Sys2Proof.Machine.execJumpOffset nnn s
  | .randomAnd x nn => Sys2Proof.Machine.execRandomAnd x nn s
  | .draw x y n => Sys2Proof.Machine.execDraw x y n s
  | .skipKeyPressed x => Sys2Proof.Machine.execSkipKeyPressed x s
  | .skipKeyNotPressed x => Sys2Proof.Machine.execSkipKeyNotPressed x s
  | .readDelayTimer x => Sys2Proof.Machine.execReadDelayTimer x s
  | .blockOnKey x => Sys2Proof.Machine.execBlockOnKey x s
  | .setDelayTimer x => Sys2Proof.Machine.execSetDelayTimer x s
  | .setSoundTimer x => Sys2Proof.Machine.execSetSoundTimer x s
  | .addToIndex x => Sys2Proof.Machine.execAddToIndex x s
  | .loadFontSprite x => Sys2Proof.Machine.execLoadFontSprite x s
  | .storeBcd x => Sys2Proof.Machine.execStoreBcd x s
  | .storeRegisters x => Sys2Proof.Machine.execStoreRegisters x s
  | .loadRegisters x => Sys2Proof.Machine.execLoadRegisters x s
  | .unhandled w => Sys2Proof.Machine.execUnhandled w s

end Sys2Proof.Machine
end

