-- ==== Sys2Proof/Machine/Cycle.lean ====
section
/-! DEFINITION. The tick (40_cycle.md) and the host's other operations on the engine (60_exceptions.md R133, R136,
70_reset_and_hazards.md R148, R149). `Step.lean` calls them. -/

namespace Sys2Proof.Machine

/-! ### The tick -/

/-- The latches a tick tests first: it performs nothing while one is set (40_cycle.md R75). -/
def State.gated (s : State) : Bool := s.fault.isSome || s.wait.isSome

/-- Step 1: a pending skip is consumed and the word it passes over is not read (40_cycle.md R76). -/
def State.consumeSkip (s : State) : State :=
  if s.skip then { s with pc := s.pc + 2, skip := false } else s

/-- Steps 2 to 4 at a state whose skip is consumed: the fetch, whose two addresses are checked first, then decode and
execute with `PC` at the fetch address plus 2 (40_cycle.md R77, R78, R79). -/
def State.fetchExecute (s : State) : Host.Outcome State Fault Refusal :=
  match outOfRange s.pc 2 with
  | some bad => .next (s.raise .memoryOutOfRange s.pc (some bad))
  | none => exec (decode (s.readWord s.pc.toNat)) (s.setPc (s.pc + 2))

/-- The tick in full (40_cycle.md R82). -/
def tick (s : State) : Host.Outcome State Fault Refusal :=
  if s.gated then .next s else s.consumeSkip.fetchExecute

/-- What a tick answers its caller (40_cycle.md R74, R75; 60_exceptions.md R139). -/
inductive TickAnswer where
  | ok
  | awaitingInput
  | faulted (r : FaultRecord)
  deriving DecidableEq, Repr

/-- The answer of a tick that led from `s` to `t` (40_cycle.md R75, R82): a fault latched before the tick or by it is
reported, a tick that a key wait turned away says so, every other tick is `Ok`. -/
def tickAnswer (s t : State) : TickAnswer :=
  match t.fault with
  | some r => .faulted r
  | none => if s.wait.isSome then .awaitingInput else .ok

/-! ### The other operations -/

/-- `if DT > 0 then DT <- DT - 1; if ST > 0 then ST <- ST - 1`, whatever the latches hold (60_exceptions.md R136). -/
def timerTick (s : State) : State :=
  { s with dt := if 0 < s.dt.toNat then s.dt - 1 else s.dt,
           st := if 0 < s.st.toNat then s.st - 1 else s.st }

/-- A key event completes a key wait of an engine that is not faulted, and changes nothing otherwise
(60_exceptions.md R133). -/
def keyEvent (k : Nibble) (s : State) : State :=
  match s.fault, s.wait with
  | none, some x => (s.setV x (keyByte k)).setWait none
  | none, none => s
  | some _, _ => s

/-- What a ROM load answers (70_reset_and_hazards.md R149). -/
inductive LoadAnswer where
  | loaded
  | romTooLarge
  deriving DecidableEq, Repr

/-- The answer of a ROM load: the one check is that the bytes fit from `ROM_START` on (70_reset_and_hazards.md R149). -/
def loadAnswer (bytes : List Byte) : LoadAnswer :=
  if bytes.length ≤ memSize - romStart then .loaded else .romTooLarge

/-- A ROM load: a reset and then the copy, or no change where the ROM is too large (70_reset_and_hazards.md R149). -/
def loadRom (bytes : List Byte) (s : State) : State :=
  match loadAnswer bytes with
  | .loaded => s.hostReset.writeBytes romStart bytes
  | .romTooLarge => s

/-- The effect of one operation of the host (60_exceptions.md R139, R144). -/
def HostOp.perform (op : HostOp) (s : State) : Host.Outcome State Fault Refusal :=
  match op with
  | .tick => Sys2Proof.Machine.tick s
  | .timerTick => .next (Sys2Proof.Machine.timerTick s)
  | .keyEvent k => .next (Sys2Proof.Machine.keyEvent k s)
  | .reset => .next s.hostReset
  | .loadRom bytes => .next (Sys2Proof.Machine.loadRom bytes s)

/-- The operation the host invokes next: the schedule's first, and a tick where the schedule is empty (entry 3). -/
def State.nextOp (s : State) : HostOp := s.schedule.headD .tick

/-- The state in which the next operation starts: it is taken off the schedule. -/
def State.takeOp (s : State) : State := { s with schedule := s.schedule.tail }

/-- One operation of the host: they are serialized, each is whole, and the schedule says which comes next
(60_exceptions.md R144). -/
def State.operate (s : State) : Host.Outcome State Fault Refusal := s.nextOp.perform s.takeOp

/-! ### Placing an instruction where the next tick fetches -/

/-- The word of the table's numbering: the low `nbits` bits of `w`. -/
def tableWord (nbits w : Nat) : Word16 := BitVec.ofNat 16 (w % 2 ^ nbits)

/-- Clear what would turn the next tick away or put another operation before it: the latches, and a schedule that does not
begin with a tick gets one. -/
def State.readyToFetch (s : State) : State :=
  { s with fault := none, wait := none,
           schedule := match s.schedule with
             | [] => []
             | .tick :: rest => .tick :: rest
             | op :: rest => .tick :: op :: rest }

/-- Where the next tick fetches, after any pending skip. -/
def State.fetchAddr (s : State) : Word16 := s.consumeSkip.pc

/-- A `PC` from which no word can be fetched goes to `ROM_START`, with no skip pending. -/
def State.fetchable (s : State) : State :=
  match outOfRange s.fetchAddr 2 with
  | some _ => { s with pc := 0x200, skip := false }
  | none => s

/-- Two bytes stored, the high one first, where the next tick fetches. -/
def State.placeWord (s : State) (w : Word16) : State :=
  s.writeBytes s.fetchAddr.toNat [w.extractLsb' 8 8, w.extractLsb' 0 8]

end Sys2Proof.Machine
end

