-- ==== Sys2Proof/Machine/Step.lean ====
section
/-! DEFINITION. One step of the machine: one operation of the host on the engine, a tick where the schedule names none. -/

namespace Sys2Proof.Machine

/-- One step: the next operation of the host (60_exceptions.md R144). From reset the schedule is empty and every step is a
tick (40_cycle.md R74). -/
def step (s : State) : Host.Outcome State Fault Refusal := s.operate

/-- `s` with the instruction of the table word `w` placed where the next step fetches (entry 8). At a state whose latches
are clear and whose next operation is a tick that can fetch, only memory changes. -/
def State.withFetchWord (s : State) (nbits w : Nat) : State :=
  s.readyToFetch.fetchable.placeWord (tableWord nbits w)

end Sys2Proof.Machine
end

