-- ==== Sys2Proof/Safety.lean ====
section
/-! DEFINITION. What claims are stated in: the end of a run, the invariant of the engine, and what an operation leaves
unchanged. -/

namespace Sys2Proof.Safety

open Sys2Proof.Machine

/-- How a run ended (70_reset_and_hazards.md R152). -/
inductive RunEnd where
  | faulted (r : FaultRecord)
  | waiting (x : Nibble)
  | spinning
  deriving DecidableEq, Repr

/-- The end of a run, between operations: a latched fault, a key wait, or a self-jump with no skip pending
(70_reset_and_hazards.md R152). -/
def runEnd (s : State) : Option RunEnd :=
  match s.fault, s.wait with
  | some r, _ => some (.faulted r)
  | none, some x => some (.waiting x)
  | none, none =>
    if s.skip = false ∧ s.pc.toNat + 1 < memSize ∧ s.readWord s.pc.toNat = encode (.jump (s.pc.setWidth 12))
    then some .spinning else none

/-- The sound is on (60_exceptions.md R142). -/
def soundOn (s : State) : Bool := s.st != 0

/-- The cause code of a kind of fault (60_exceptions.md R126). -/
def causeCode : FaultKind → Nat
  | .stackOverflow => 1
  | .stackUnderflow => 2
  | .memoryOutOfRange => 3

/-- A record as 60_exceptions.md R127 says it reads: an out-of-range address for `memoryOutOfRange`, none otherwise. -/
def recordWf (r : FaultRecord) : Prop :=
  match r.kind with
  | .memoryOutOfRange => ∃ a, r.addr = some a ∧ memSize ≤ a.toNat
  | .stackOverflow | .stackUnderflow => r.addr = none

/-- What holds of an engine between any two operations. -/
structure Inv (s : State) : Prop where
  /-- Memory is in its canonical form. -/
  memory : s.mem.wf s.params.fontBase.val
  /-- The stack holds at most `STACK_DEPTH` entries (10_state.md R37). -/
  depth : s.stack.length ≤ s.params.stackDepth.entries
  /-- A pushed address is that of the word after a call (41_control.md R89). -/
  entries : ∀ a ∈ s.stack, a.toNat ≤ 0x1000
  /-- `PC` of an engine that is not faulted (10_state.md R34). -/
  pcRunning : s.fault = none → s.pc.toNat ≤ 0x1000
  /-- `PC` of a faulted engine (10_state.md R34). -/
  pcFaulted : s.pc.toNat ≤ 0x1002
  /-- `I` is at most what `BNNN` can leave (10_state.md R29). -/
  index : s.i.toNat ≤ 0x10FE
  /-- A waiting engine executes nothing, so it is not faulted. -/
  oneLatch : s.wait ≠ none → s.fault = none
  /-- No skip is pending while a latch is set: the tick that set it had consumed it (10_state.md R36). -/
  latchedNoSkip : s.gated = true → s.skip = false
  /-- The record reads as R127 says. -/
  record : ∀ r, s.fault = some r → recordWf r

/-- The next operation of `s` is a tick that gets past the latches and fetches at `a`, after any pending skip
(40_cycle.md R75, R76, R77). -/
def fetchesAt (s : State) (a : Word16) : Prop :=
  s.nextOp = .tick ∧ s.fault = none ∧ s.wait = none ∧ a = (if s.skip then s.pc + 2 else s.pc) ∧ a.toNat + 1 ≤ 0xFFF

/-- The state an instruction fetched at `a` executes in (40_cycle.md R79). -/
def afterFetch (s : State) (a : Word16) : State :=
  { s with pc := a + 2, skip := false, schedule := s.schedule.tail }

/-- The next step of `s` fetches the instruction `i` at `a`, the high byte first (20_memory.md R49). -/
def fetches (s : State) (a : Word16) (i : Instr) : Prop :=
  fetchesAt s a ∧ decode (s.readByte a.toNat ++ s.readByte (a.toNat + 1)) = i

/-- The next operation of `s` gives the engine its reset state: `reset`, or a `loadRom` that is accepted
(70_reset_and_hazards.md R148, R149). -/
def resets (s : State) : Prop :=
  s.nextOp = .reset ∨ ∃ bs, s.nextOp = .loadRom bs ∧ bs.length ≤ 3584

/-- The general registers the execute step of an instruction writes (10_state.md R28). `FX0A` writes `V[X]` too, but at the
key event that ends its wait. -/
def writesV : Instr → Nibble → Bool
  | .loadConst x _, z | .addConst x _, z | .copy x _, z | .orReg x _, z | .andReg x _, z | .xorReg x _, z
  | .randomAnd x _, z | .readDelayTimer x, z => z == x
  | .addReg x _, z | .subReg x _, z | .subRegReverse x _, z | .shiftRight x _, z | .shiftLeft x _, z => z == x || z == 15#4
  | .draw _ _ _, z => z == 15#4
  | .loadRegisters x, z => decide (z.toNat ≤ x.toNat)
  | _, _ => false

/-- The general registers an instruction reads (10_state.md R28). -/
def readsV (source : Config.ShiftSource) : Instr → Nibble → Bool
  | .skipEqConst x _, z | .skipNeqConst x _, z | .skipKeyPressed x, z | .skipKeyNotPressed x, z | .setDelayTimer x, z
  | .setSoundTimer x, z | .addToIndex x, z | .loadFontSprite x, z | .storeBcd x, z | .addConst x _, z => z == x
  | .skipEqReg x y, z | .skipNeqReg x y, z | .orReg x y, z | .andReg x y, z | .xorReg x y, z | .addReg x y, z
  | .subReg x y, z | .subRegReverse x y, z | .draw x y _, z => z == x || z == y
  | .copy _ y, z => z == y
  | .shiftRight x y, z | .shiftLeft x y, z => if source = .vy then z == y else z == x
  | .jumpOffset _, z => z == 0#4
  | .storeRegisters x, z => decide (z.toNat ≤ x.toNat)
  | _, _ => false

/-- The instructions that write the pending-skip flag (10_state.md R35). -/
def writesSkip : Instr → Bool
  | .skipEqConst _ _ | .skipNeqConst _ _ | .skipEqReg _ _ | .skipNeqReg _ _ | .skipKeyPressed _ | .skipKeyNotPressed _ => true
  | _ => false

/-- The cause table (60_exceptions.md R126): the fault the execute step of `i` raises, with the address it records. -/
def faultCause (i : Instr) (s : State) : Option (FaultKind × Option Nat) :=
  match i with
  | .call _ => if s.params.stackDepth.entries ≤ s.stack.length then some (.stackOverflow, none) else none
  | .ret => if s.stack = [] then some (.stackUnderflow, none) else none
  | .draw _ _ n =>
    if n.toNat > 0 ∧ s.i.toNat + n.toNat - 1 > 0xFFF then some (.memoryOutOfRange, some (max s.i.toNat 0x1000)) else none
  | .storeBcd _ => if s.i.toNat + 2 > 0xFFF then some (.memoryOutOfRange, some (max s.i.toNat 0x1000)) else none
  | .storeRegisters x | .loadRegisters x =>
    if s.i.toNat + x.toNat > 0xFFF then some (.memoryOutOfRange, some (max s.i.toNat 0x1000)) else none
  | _ => none

/-- The state after an execute step that raises `MemoryOutOfRange` through `I` (60_exceptions.md R126, R128): the latch is
set, with the address the instruction was fetched from and the lowest address out of range, and nothing else changes. -/
def faultedAtI (s : State) : State :=
  { s with fault := some ⟨.memoryOutOfRange, s.pc - 2, some (BitVec.ofNat 16 (max s.i.toNat 0x1000))⟩ }

/-- Every byte of memory reads as before. -/
def SameMemory (s t : State) : Prop := ∀ a, t.readByte a = s.readByte a

/-- Every byte outside the `n` bytes from `a` on reads as before. -/
def SameMemoryOutside (a n : Nat) (s t : State) : Prop := ∀ b, b < a ∨ a + n ≤ b → t.readByte b = s.readByte b

/-- Every general register but those of the list holds what it held. -/
def SameRegsExcept (xs : List Nibble) (s t : State) : Prop := ∀ x, x ∉ xs → t.getV x = s.getV x

end Sys2Proof.Safety
end

