-- ==== Sys2Proof/Certificates/Slice0/Obligations.lean ====
section
/-! DEFINITION. The statements about the model, for the provers. R<n> is a numbered rule of spec/, D<n> a row of
92_eei_decisions.md; "entry <n>" is notes/assumptions/<n>.md. -/

open Sys2Proof Sys2Proof.Machine Sys2Proof.Safety

/-! ### Encoding -/

/-- Words written out from the patterns of 30_encoding.md R69, one or more for each family, decode to what they stand for. -/
def Obligations.SampleWordsDecodeAsWritten : Prop :=
  decode 0x00E0#16 = .clearScreen ∧ decode 0x0FEE#16 = .ret ∧ decode 0x1234#16 = .jump 0x234#12 ∧
  decode 0x23FE#16 = .call 0x3FE#12 ∧ decode 0x3105#16 = .skipEqConst 1#4 0x05#8 ∧
  decode 0x512F#16 = .skipEqReg 1#4 2#4 ∧ decode 0x7103#16 = .addConst 1#4 0x03#8 ∧
  decode 0x8125#16 = .subReg 1#4 2#4 ∧ decode 0x8AB7#16 = .subRegReverse 0xA#4 0xB#4 ∧
  decode 0xB300#16 = .jumpOffset 0x300#12 ∧ decode 0xD125#16 = .draw 1#4 2#4 5#4 ∧
  decode 0xE3A1#16 = .skipKeyNotPressed 3#4 ∧ decode 0xF20A#16 = .blockOnKey 2#4 ∧
  decode 0xF265#16 = .loadRegisters 2#4 ∧ decode 0x8AB8#16 = .unhandled 0x8AB8#16

/-- Decode and encode agree, on words and on the bytes as memory holds them: for every well-formed instruction, with every
operand at every value. -/
def Obligations.DecodeOfEncodeIsTheInstruction : Prop :=
  ∀ i : Instr, i.wellFormed = true →
    decode (encode i) = i ∧ ∀ rest : List Byte, decodeBytes (encodeBytes i ++ rest) = .ok (i, rest)

/-- Every word decodes to a well-formed instruction, and the instruction's own word decodes to it again. -/
def Obligations.EveryWordDecodesToAWellFormedInstruction : Prop :=
  ∀ w : Word16, (decode w).wellFormed = true ∧ decode (encode (decode w)) = decode w

/-- The operand fields are the masked slices of the raw word (R61). -/
def Obligations.OperandFieldsAreTheMaskedSlices : Prop :=
  ∀ w : Word16,
    (fieldNNN w).toNat = (w &&& 0xFFF#16).toNat ∧
    (fieldX w).toNat = ((w &&& 0xF00#16) >>> 8).toNat ∧
    (fieldY w).toNat = ((w &&& 0xF0#16) >>> 4).toNat ∧
    (fieldNN w).toNat = (w &&& 0xFF#16).toNat ∧
    (fieldN w).toNat = (w &&& 0xF#16).toNat

/-- The identifier is the word under the mask its top nibble chooses (R64). -/
def Obligations.IdentifierIsTheWordUnderTheGroupMask : Prop :=
  ∀ w : Word16,
    (w.toNat / 4096 = 0x8 → ident w = w &&& 0xF00F#16) ∧
    (w.toNat / 4096 = 0xE → ident w = w &&& 0xF0FF#16) ∧
    (w.toNat / 4096 = 0xF → w.toNat / 16 % 16 = 0 → ident w = w &&& 0xF00F#16) ∧
    (w.toNat / 4096 = 0xF → w.toNat / 16 % 16 ≠ 0 → ident w = w &&& 0xF0FF#16) ∧
    (w.toNat / 4096 = 0x0 → ident w = w &&& 0x00FF#16) ∧
    (w.toNat / 4096 ≠ 0x8 → w.toNat / 4096 ≠ 0xE → w.toNat / 4096 ≠ 0xF → w.toNat / 4096 ≠ 0x0 →
      ident w = w &&& 0xF000#16)

/-- The 34 (match, mask) pairs of R69 select disjoint sets of words, and a pair selects a word exactly when the word has the
pair's identifier: the sentence that closes R69, which the spec derives from R64. -/
def Obligations.OpcodeMapSelectsByIdentifier : Prop :=
  opcodeMap.length = 34 ∧
  (∀ r ∈ opcodeMap, ∀ w : Word16, r.selects w = true ↔ ident w = r.ident) ∧
  (∀ r ∈ opcodeMap, ∀ r' ∈ opcodeMap, ∀ w : Word16, r.selects w = true → r'.selects w = true → r = r')

/-- The decoder ignores bits 11:8 of clear-screen and return and bits 3:0 of the two register skips: R66 and R67, which the
spec derives from R64 (90_conflicts.md C3, C7). -/
def Obligations.IgnoredBitsDoNotChangeTheInstruction : Prop :=
  (∀ z : Nibble, decode (z.setWidth 16 <<< 8 ||| 0x00E0#16) = .clearScreen ∧
    decode (z.setWidth 16 <<< 8 ||| 0x00EE#16) = .ret) ∧
  (∀ x y n : Nibble, decode (formXYN 0x5#4 x y n) = .skipEqReg x y ∧ decode (formXYN 0x9#4 x y n) = .skipNeqReg x y)

/-- The unhandled words are the four sets of R70, which the spec derives from R64 and R69. -/
def Obligations.UnhandledWordsAreTheListedOnes : Prop :=
  ∀ w : Word16, decode w = .unhandled w ↔
    (w.toNat / 4096 = 0x0 ∧ w.toNat % 256 ∉ [0xE0, 0xEE]) ∨
    (w.toNat / 4096 = 0x8 ∧ w.toNat % 16 ∈ [0x8, 0x9, 0xA, 0xB, 0xC, 0xD, 0xF]) ∨
    (w.toNat / 4096 = 0xE ∧ w.toNat % 256 ∉ [0x9E, 0xA1]) ∨
    (w.toNat / 4096 = 0xF ∧ w.toNat % 256 ∉ [0x07, 0x0A, 0x15, 0x18, 0x1E, 0x29, 0x33, 0x55, 0x65])

/-! ### Reset and ROM load -/

/-- The state right after reset with the default parameters: the values of 10_state.md section 10. All but `PC` are the
spec's own decision (D16, D10); the empty schedule and the empty record of port calls are the model's (entries 2, 3). -/
def Obligations.ResetStateHasTheListedValues : Prop :=
  (∀ x, State.reset.getV x = 0) ∧ State.reset.i = 0 ∧ State.reset.pc = 0x200 ∧ State.reset.skip = false ∧
  State.reset.stack = [] ∧ State.reset.dt = 0 ∧ State.reset.st = 0 ∧ State.reset.wait = none ∧ State.reset.fault = none ∧
  (∀ a, 0x50 ≤ a → a < 0xA0 → fontData[a - 0x50]? = some (State.reset.readByte a)) ∧
  (∀ a, a < 0x50 ∨ 0xA0 ≤ a → State.reset.readByte a = 0) ∧
  State.reset.params = ⟨.d16, .vy, 0x050⟩

/-- The host's reset of any engine, faulted or waiting ones among them, gives every element of the architectural state its
reset value in one step, for every legal `FONT_BASE`: R148, whose values are the spec's decisions D10, D16, D33. That the
parameters and the record of port calls stay is the model's choice (entries 1, 2). -/
def Obligations.HostResetGivesTheResetState : Prop :=
  ∀ (s : State), s.nextOp = .reset → ∃ t, step s = .next t ∧
    (∀ x, t.getV x = 0) ∧ t.i = 0 ∧ t.pc = 0x200 ∧ t.skip = false ∧ t.stack = [] ∧ t.dt = 0 ∧ t.st = 0 ∧
    t.wait = none ∧ t.fault = none ∧
    (∀ k, k < 80 → fontData[k]? = some (t.readByte (s.params.fontBase.val + k))) ∧
    (∀ a, a < s.params.fontBase.val ∨ s.params.fontBase.val + 80 ≤ a → t.readByte a = 0) ∧
    t.params = s.params ∧ t.ports = s.ports ∧ t.schedule = s.schedule.tail

/-- A ROM of at most 3584 bytes is loaded over the reset state, from 0x200 on, and a longer one changes nothing: R149, the
spec's decision D17. -/
def Obligations.RomLoadCopiesOverTheResetStateOrIsRejected : Prop :=
  ∀ (s : State) (bs : List Byte), s.nextOp = .loadRom bs → ∃ t, step s = .next t ∧
    (bs.length ≤ 3584 → loadAnswer bs = .loaded ∧ t = { s.takeOp.hostReset with mem := t.mem } ∧
      (∀ k, k < bs.length → bs[k]? = some (t.readByte (0x200 + k))) ∧
      (∀ a, a < 0x200 ∨ 0x200 + bs.length ≤ a → t.readByte a = s.takeOp.hostReset.readByte a)) ∧
    (3584 < bs.length → loadAnswer bs = .romTooLarge ∧ t = { s with schedule := s.schedule.tail })

/-! ### The invariant -/

/-- The engine's invariant holds at reset. -/
def Obligations.InvariantHoldsAtReset : Prop := Inv State.reset

/-- Every operation of the host keeps the engine's invariant: memory stays canonical, the stack bounded and its entries
addresses, `PC` and `I` in their ranges (R34, R29), at most one latch set, no skip pending while one is, and a latched
record reads as R127 says. -/
def Obligations.EveryStepKeepsTheInvariant : Prop :=
  ∀ s t : State, Inv s → step s = .next t → Inv t

/-- No step stops the machine, and no operation changes the parameters (00_scope.md section 3; entries 1, 4). -/
def Obligations.EveryStepHasANextStateWithTheSameParameters : Prop :=
  ∀ s : State, ∃ t, step s = .next t ∧ t.params = s.params

/-! ### The cycle -/

/-- A step runs the decoded instruction: where the next operation is a tick that fetches at `a` (after any pending skip) and
the two bytes there decode to `i`, the step is the execute step of `i` with `PC` at the fetch address plus 2 and `skip` false
(R79), and `i` is what the word with the byte at the lower address as its high byte decodes to (R78). -/
def Obligations.StepRunsTheDecodedInstruction : Prop :=
  ∀ (s : State) (a : Word16) (i : Instr), fetchesAt s a →
    decodeBytes [s.readByte a.toNat, s.readByte (a.toNat + 1)] = .ok (i, []) →
    step s = exec i (afterFetch s a) ∧
    ∀ w : Word16, w.toNat = (s.readByte a.toNat).toNat * 256 + (s.readByte (a.toNat + 1)).toNat → i = decode w

/-- A tick while a latch is set changes nothing and says which latch: R75, the spec's decision D30. -/
def Obligations.TickWhileLatchedChangesNothing : Prop :=
  (∀ (s : State) (r : FaultRecord), s.fault = some r → tick s = .next s ∧ tickAnswer s s = .faulted r) ∧
  (∀ (s : State) (x : Nibble), s.fault = none → s.wait = some x → tick s = .next s ∧ tickAnswer s s = .awaitingInput) ∧
  (∀ s : State, s.nextOp = .tick → (s.fault ≠ none ∨ s.wait ≠ none) →
    step s = .next { s with schedule := s.schedule.tail })

/-- A fetch that would touch an address above 0xFFF raises `MemoryOutOfRange` with `PC` at the attempted address; a pending
skip has been consumed: R77, with the spec's decisions D1, D11, D14. -/
def Obligations.FetchPastTheTopFaults : Prop :=
  ∀ (s : State) (a : Word16), s.nextOp = .tick → s.fault = none → s.wait = none →
    a = (if s.skip then s.pc + 2 else s.pc) → 0xFFF < a.toNat + 1 →
    ∃ t, step s = .next t ∧
      t = { s with pc := a, skip := false, schedule := s.schedule.tail,
                   fault := some ⟨.memoryOutOfRange, a, some (BitVec.ofNat 16 (max a.toNat 0x1000))⟩ } ∧
      tickAnswer s t = .faulted ⟨.memoryOutOfRange, a, some (BitVec.ofNat 16 (max a.toNat 0x1000))⟩

/-- A pending skip passes over one word: the step is that of the engine two bytes further on with no skip pending, so the
word passed over is neither read nor executed, and a step that executes no control transfer leaves `PC` four further: R84,
which the spec derives from R76 and R77 (D32). -/
def Obligations.PendingSkipPassesOverOneWord : Prop :=
  ∀ s : State, s.nextOp = .tick → s.fault = none → s.wait = none → s.skip = true →
    step s = step { s with pc := s.pc + 2, skip := false } ∧
    ∀ i : Instr, fetches s (s.pc + 2) i → i ≠ .ret → (∀ nnn, i ≠ .jump nnn ∧ i ≠ .call nnn) →
      ∃ t, step s = .next t ∧ t.pc = s.pc + 4

/-- An unhandled word executes as a no-op: the execute step changes nothing, and the whole tick consumes a pending skip and
moves `PC` past the word (R80). -/
def Obligations.UnhandledWordOnlyMovesPc : Prop :=
  (∀ (w : Word16) (s : State), exec (.unhandled w) s = .next s) ∧
  (∀ (s : State) (a w : Word16), fetches s a (.unhandled w) →
    step s = .next { s with pc := a + 2, skip := false, schedule := s.schedule.tail })

/-- `PC` changes only in the ways R32 lists. The clauses beside R32 rest on the spec's own decisions (entry 5): a tick that is
turned away keeps `PC` (R75, D30), one whose fetch faults moves it by a consumed skip only (R77, D1, D11, D14), an overflow or
underflow leaves it at the fetch address plus 2 (R81, D14), an accepted ROM load sets it and a rejected one keeps it (R149,
D17). -/
def Obligations.PcChangesOnlyAsListed : Prop :=
  ∀ s t : State, step s = .next t →
    match s.nextOp with
    | .timerTick | .keyEvent _ => t.pc = s.pc
    | .reset => t.pc = 0x200
    | .loadRom bs => t.pc = if bs.length ≤ 3584 then 0x200 else s.pc
    | .tick =>
      ((s.fault ≠ none ∨ s.wait ≠ none) → t.pc = s.pc) ∧
      (s.fault = none → s.wait = none → (∀ a, ¬ fetchesAt s a) → t.pc = if s.skip then s.pc + 2 else s.pc) ∧
      (∀ a i, fetches s a i →
        match i with
        | .jump nnn => t.pc.toNat = nnn.toNat
        | .call nnn => if t.fault = none then t.pc.toNat = nnn.toNat else t.pc = a + 2
        | .ret => match s.stack with
          | [] => t.pc = a + 2
          | top :: _ => t.pc = top
        | _ => t.pc = a + 2)

/-- Where a run has ended (a fault, a key wait, a self-jump) a tick changes nothing: R152, the spec's decision D31, and the
idiom of R83. -/
def Obligations.RunEndIsLeftByNoTick : Prop :=
  ∀ (s : State) (e : RunEnd), runEnd s = some e → s.nextOp = .tick → step s = .next { s with schedule := s.schedule.tail }

/-! ### Control transfer and conditional skips -/

/-- clear-screen drives the display's clear port once and changes nothing else (R86). -/
def Obligations.ClearScreenDrivesTheClearPort : Prop :=
  (∀ w : Word16, w &&& 0xF0FF#16 = 0x00E0#16 → decode w = .clearScreen) ∧
  ∀ s : State, exec .clearScreen s = .next { s with ports := .clear :: s.ports }

/-- return pops into `PC` and changes nothing else; from an empty stack it raises `StackUnderflow` and does nothing else:
R87, the spec's decision D21, and the record of D13. -/
def Obligations.ReturnPopsIntoPc : Prop :=
  (∀ w : Word16, w &&& 0xF0FF#16 = 0x00EE#16 → decode w = .ret) ∧
  (∀ (s : State) (a : Word16) (rest : List Word16), s.stack = a :: rest →
    exec .ret s = .next { s with pc := a, stack := rest }) ∧
  (∀ s : State, s.stack = [] → exec .ret s = .next { s with fault := some ⟨.stackUnderflow, s.pc - 2, none⟩ })

/-- jump writes its 12-bit target to `PC` and changes nothing else, and the fetch after a jump to 0xFFF faults (R88). -/
def Obligations.JumpWritesPc : Prop :=
  (∀ w : Word16, w &&& 0xF000#16 = 0x1000#16 → decode w = .jump (fieldNNN w)) ∧
  ∀ (nnn : Addr12) (s : State), ∃ t, exec (.jump nnn) s = .next t ∧ t.pc.toNat = nnn.toNat ∧
    t = { s with pc := t.pc } ∧
    (nnn = 0xFFF#12 → s.nextOp = .tick → s.fault = none → s.wait = none → s.skip = false →
      ∃ u, step t = .next u ∧ u.fault = some ⟨.memoryOutOfRange, 0xFFF#16, some 0x1000#16⟩)

/-- call pushes `PC` (the address after the call) and writes its target to `PC`, and changes nothing else; on a full stack it
raises `StackOverflow` and does nothing else (R89). -/
def Obligations.CallPushesPcAndJumps : Prop :=
  (∀ w : Word16, w &&& 0xF000#16 = 0x2000#16 → decode w = .call (fieldNNN w)) ∧
  (∀ (nnn : Addr12) (s : State), s.stack.length < s.params.stackDepth.entries →
    exec (.call nnn) s = .next { s with pc := nnn.setWidth 16, stack := s.pc :: s.stack }) ∧
  (∀ (nnn : Addr12) (s : State), s.params.stackDepth.entries ≤ s.stack.length →
    exec (.call nnn) s = .next { s with fault := some ⟨.stackOverflow, s.pc - 2, none⟩ })

/-- A call followed at once by a return: two ticks that leave `PC` after the call and everything else as it was: R90, which
the spec derives from R89 and R87. -/
def Obligations.CallThenReturnRestoresTheState : Prop :=
  ∀ (s : State) (nnn : Addr12), s.schedule = [] → s.skip = false → fetches s s.pc (.call nnn) →
    nnn.toNat + 1 ≤ 0xFFF → decode (s.readByte nnn.toNat ++ s.readByte (nnn.toNat + 1)) = .ret →
    s.stack.length < s.params.stackDepth.entries →
    ∃ t, step s = .next t ∧ step t = .next { s with pc := s.pc + 2 }

/-- The four conditional skips write the pending-skip flag with their comparison and change nothing else (R91 to R94). -/
def Obligations.ConditionalSkipsWriteTheSkipFlag : Prop :=
  (∀ w : Word16, w &&& 0xF000#16 = 0x3000#16 → decode w = .skipEqConst (fieldX w) (fieldNN w)) ∧
  (∀ w : Word16, w &&& 0xF000#16 = 0x4000#16 → decode w = .skipNeqConst (fieldX w) (fieldNN w)) ∧
  (∀ w : Word16, w &&& 0xF000#16 = 0x5000#16 → decode w = .skipEqReg (fieldX w) (fieldY w)) ∧
  (∀ w : Word16, w &&& 0xF000#16 = 0x9000#16 → decode w = .skipNeqReg (fieldX w) (fieldY w)) ∧
  (∀ (x : Nibble) (nn : Byte) (s : State),
    exec (.skipEqConst x nn) s = .next { s with skip := decide (s.getV x = nn) } ∧
    exec (.skipNeqConst x nn) s = .next { s with skip := decide (s.getV x ≠ nn) }) ∧
  (∀ (x y : Nibble) (s : State),
    exec (.skipEqReg x y) s = .next { s with skip := decide (s.getV x = s.getV y) } ∧
    exec (.skipNeqReg x y) s = .next { s with skip := decide (s.getV x ≠ s.getV y) })

/-! ### Register loads and ALU -/

/-- load-const, add-const and copy: the destination's new value; no other register, `VF` among them, and nothing else
changes (R98, R99, R100). -/
def Obligations.LoadsAndAddConstWriteTheDestinationOnly : Prop :=
  (∀ w : Word16, w &&& 0xF000#16 = 0x6000#16 → decode w = .loadConst (fieldX w) (fieldNN w)) ∧
  (∀ w : Word16, w &&& 0xF000#16 = 0x7000#16 → decode w = .addConst (fieldX w) (fieldNN w)) ∧
  (∀ w : Word16, w &&& 0xF00F#16 = 0x8000#16 → decode w = .copy (fieldX w) (fieldY w)) ∧
  (∀ (x : Nibble) (nn : Byte) (s : State), ∃ t, exec (.loadConst x nn) s = .next t ∧
    t.getV x = nn ∧ SameRegsExcept [x] s t ∧ t = { s with v := t.v } ∧ SameMemory s t) ∧
  (∀ (x : Nibble) (nn : Byte) (s : State), ∃ t, exec (.addConst x nn) s = .next t ∧
    (t.getV x).toNat = ((s.getV x).toNat + nn.toNat) % 256 ∧
    SameRegsExcept [x] s t ∧ t = { s with v := t.v } ∧ SameMemory s t) ∧
  (∀ (x y : Nibble) (s : State), ∃ t, exec (.copy x y) s = .next t ∧
    t.getV x = s.getV y ∧ SameRegsExcept [x] s t ∧ t = { s with v := t.v } ∧ SameMemory s t)

/-- or, and, xor: the destination's new value; no other register, `VF` among them, and nothing else changes (R101, R102,
R103). -/
def Obligations.BitwiseOperationsWriteTheDestinationOnly : Prop :=
  (∀ w : Word16, w &&& 0xF00F#16 = 0x8001#16 → decode w = .orReg (fieldX w) (fieldY w)) ∧
  (∀ w : Word16, w &&& 0xF00F#16 = 0x8002#16 → decode w = .andReg (fieldX w) (fieldY w)) ∧
  (∀ w : Word16, w &&& 0xF00F#16 = 0x8003#16 → decode w = .xorReg (fieldX w) (fieldY w)) ∧
  (∀ (x y : Nibble) (s : State), ∃ t, exec (.orReg x y) s = .next t ∧
    t.getV x = s.getV x ||| s.getV y ∧ SameRegsExcept [x] s t ∧ t = { s with v := t.v } ∧ SameMemory s t) ∧
  (∀ (x y : Nibble) (s : State), ∃ t, exec (.andReg x y) s = .next t ∧
    t.getV x = s.getV x &&& s.getV y ∧ SameRegsExcept [x] s t ∧ t = { s with v := t.v } ∧ SameMemory s t) ∧
  (∀ (x y : Nibble) (s : State), ∃ t, exec (.xorReg x y) s = .next t ∧
    t.getV x = s.getV x ^^^ s.getV y ∧ SameRegsExcept [x] s t ∧ t = { s with v := t.v } ∧ SameMemory s t)

/-- add-reg: the sum modulo 256 in `V[X]` and the carry in `VF`; with `X = 15` the sum stays; nothing else changes (R104). -/
def Obligations.AddRegWritesSumAndCarry : Prop :=
  (∀ w : Word16, w &&& 0xF00F#16 = 0x8004#16 → decode w = .addReg (fieldX w) (fieldY w)) ∧
  ∀ (x y : Nibble) (s : State), ∃ t, exec (.addReg x y) s = .next t ∧
    (t.getV x).toNat = ((s.getV x).toNat + (s.getV y).toNat) % 256 ∧
    (x ≠ 15#4 → t.getV 15#4 = if (s.getV x).toNat + (s.getV y).toNat > 255 then 1 else 0) ∧
    SameRegsExcept [x, 15#4] s t ∧ t = { s with v := t.v } ∧ SameMemory s t

/-- sub-reg and sub-reg-reverse: the difference modulo 256 in `V[X]` and the borrow (not its complement) in `VF`; with
`X = 15` the difference stays; nothing else changes (R105, R106). -/
def Obligations.SubtractionsWriteDifferenceAndBorrow : Prop :=
  (∀ w : Word16, w &&& 0xF00F#16 = 0x8005#16 → decode w = .subReg (fieldX w) (fieldY w)) ∧
  (∀ w : Word16, w &&& 0xF00F#16 = 0x8007#16 → decode w = .subRegReverse (fieldX w) (fieldY w)) ∧
  (∀ (x y : Nibble) (s : State), ∃ t, exec (.subReg x y) s = .next t ∧
    ((t.getV x).toNat : Int) = ((s.getV x).toNat - (s.getV y).toNat : Int) % 256 ∧
    (x ≠ 15#4 → t.getV 15#4 = if (s.getV x).toNat < (s.getV y).toNat then 1 else 0) ∧
    SameRegsExcept [x, 15#4] s t ∧ t = { s with v := t.v } ∧ SameMemory s t) ∧
  (∀ (x y : Nibble) (s : State), ∃ t, exec (.subRegReverse x y) s = .next t ∧
    ((t.getV x).toNat : Int) = ((s.getV y).toNat - (s.getV x).toNat : Int) % 256 ∧
    (x ≠ 15#4 → t.getV 15#4 = if (s.getV y).toNat < (s.getV x).toNat then 1 else 0) ∧
    SameRegsExcept [x, 15#4] s t ∧ t = { s with v := t.v } ∧ SameMemory s t)

/-- The two shifts, for both values of `SHIFT_SOURCE`: the operand shifted by one in `V[X]` and the bit moved out in `VF`;
with `X = 15` the result stays; nothing else changes: R107 and R108, with the spec's decision D6 on the operand. -/
def Obligations.ShiftsWriteResultAndBitMovedOut : Prop :=
  (∀ w : Word16, w &&& 0xF00F#16 = 0x8006#16 → decode w = .shiftRight (fieldX w) (fieldY w)) ∧
  (∀ w : Word16, w &&& 0xF00F#16 = 0x800E#16 → decode w = .shiftLeft (fieldX w) (fieldY w)) ∧
  (∀ (x y : Nibble) (s : State) (src : Byte), src = (if s.params.shiftSource = .vy then s.getV y else s.getV x) →
    ∃ t, exec (.shiftRight x y) s = .next t ∧
      (t.getV x).toNat = src.toNat / 2 ∧ (x ≠ 15#4 → (t.getV 15#4).toNat = src.toNat % 2) ∧
      SameRegsExcept [x, 15#4] s t ∧ t = { s with v := t.v } ∧ SameMemory s t) ∧
  (∀ (x y : Nibble) (s : State) (src : Byte), src = (if s.params.shiftSource = .vy then s.getV y else s.getV x) →
    ∃ t, exec (.shiftLeft x y) s = .next t ∧
      (t.getV x).toNat = src.toNat * 2 % 256 ∧ (x ≠ 15#4 → (t.getV 15#4).toNat = src.toNat / 128) ∧
      SameRegsExcept [x, 15#4] s t ∧ t = { s with v := t.v } ∧ SameMemory s t)

/-- random-and: one draw of the random port, and its byte under the mask in `V[X]`; nothing else changes: R109. The byte is a
free value, indexed by the calls made before (D23, entry 2). -/
def Obligations.RandomAndMasksTheDrawnByte : Prop :=
  (∀ w : Word16, w &&& 0xF000#16 = 0xC000#16 → decode w = .randomAnd (fieldX w) (fieldNN w)) ∧
  ∀ (x : Nibble) (nn : Byte) (s : State), ∃ t, exec (.randomAnd x nn) s = .next t ∧
    t.getV x = Config.randByte s.ports.length &&& nn ∧ t.ports = .rand :: s.ports ∧
    SameRegsExcept [x] s t ∧ t = { s with v := t.v, ports := t.ports } ∧ SameMemory s t

/-- The execute step of every instruction leaves alone every general register that R28 does not list as written by it; R28
is derived by the spec from the instruction rules. -/
def Obligations.RegistersAreWrittenOnlyAsListed : Prop :=
  ∀ (i : Instr) (s : State) (z : Nibble), writesV i z = false →
    ∃ t, exec i s = .next t ∧ t.getV z = s.getV z

/-- The execute step of every instruction depends on no general register but those that R28 lists as read by it: with the
others changed, the registers it writes and everything else come out the same. R28 is derived by the spec. The two execute
steps come after equally many port calls, so both get the same answers from the collaborators: that is the model's choice
(entry 2), and the statement says nothing of collaborators that answer the two differently. -/
def Obligations.RegistersAreReadOnlyAsListed : Prop :=
  ∀ (i : Instr) (s : State) (v' : Vector Byte 16),
    (∀ z, readsV s.params.shiftSource i z = true → ({ s with v := v' } : State).getV z = s.getV z) →
    ∃ t t', exec i s = .next t ∧ exec i { s with v := v' } = .next t' ∧ t' = { t with v := t'.v } ∧
      (t.fault = none → ∀ z, writesV i z = true → t'.getV z = t.getV z)

/-! ### Index register and memory transfers -/

/-- load-index and add-to-index write `I` and nothing else; only add-to-index reduces it, modulo 4096 (R110, R112). -/
def Obligations.LoadIndexAndAddToIndexWriteIndex : Prop :=
  (∀ w : Word16, w &&& 0xF000#16 = 0xA000#16 → decode w = .loadIndex (fieldNNN w)) ∧
  (∀ w : Word16, w &&& 0xF0FF#16 = 0xF01E#16 → decode w = .addToIndex (fieldX w)) ∧
  (∀ (nnn : Addr12) (s : State), ∃ t, exec (.loadIndex nnn) s = .next t ∧ t.i.toNat = nnn.toNat ∧
    t = { s with i := t.i }) ∧
  (∀ (x : Nibble) (s : State), ∃ t, exec (.addToIndex x) s = .next t ∧
    t.i.toNat = (s.i.toNat + (s.getV x).toNat) % 4096 ∧ t = { s with i := t.i })

/-- jump-offset writes the unreduced sum to `I` and leaves `PC` alone (R111, the spec's decision D20), and load-font-sprite
writes the glyph's address for every legal `FONT_BASE` (R113, decision D10); nothing else changes. -/
def Obligations.JumpOffsetAndLoadFontSpriteWriteIndexOnly : Prop :=
  (∀ w : Word16, w &&& 0xF000#16 = 0xB000#16 → decode w = .jumpOffset (fieldNNN w)) ∧
  (∀ w : Word16, w &&& 0xF0FF#16 = 0xF029#16 → decode w = .loadFontSprite (fieldX w)) ∧
  (∀ (nnn : Addr12) (s : State), ∃ t, exec (.jumpOffset nnn) s = .next t ∧
    t.i.toNat = nnn.toNat + (s.getV 0#4).toNat ∧ t = { s with i := t.i }) ∧
  (∀ (x : Nibble) (s : State), ∃ t, exec (.loadFontSprite x) s = .next t ∧
    t.i.toNat = s.params.fontBase.val + 5 * ((s.getV x).toNat % 16) ∧ t = { s with i := t.i })

/-- store-bcd: the digits of `V[X]` at `I`, `I + 1`, `I + 2` and no other byte, `I` and every register unchanged; where
`I + 2` is above 0xFFF, `MemoryOutOfRange` and no other effect (R114). -/
def Obligations.StoreBcdWritesTheThreeDigits : Prop :=
  (∀ w : Word16, w &&& 0xF0FF#16 = 0xF033#16 → decode w = .storeBcd (fieldX w)) ∧
  (∀ (x : Nibble) (s : State), s.i.toNat + 2 ≤ 0xFFF → ∃ t, exec (.storeBcd x) s = .next t ∧
    (t.readByte s.i.toNat).toNat = (s.getV x).toNat / 100 ∧
    (t.readByte (s.i.toNat + 1)).toNat = (s.getV x).toNat / 10 % 10 ∧
    (t.readByte (s.i.toNat + 2)).toNat = (s.getV x).toNat % 10 ∧
    SameMemoryOutside s.i.toNat 3 s t ∧ t = { s with mem := t.mem }) ∧
  (∀ (x : Nibble) (s : State), s.i.toNat + 2 > 0xFFF → exec (.storeBcd x) s = .next (faultedAtI s))

/-- store-registers: `V[0]` to `V[X]` at `I` to `I + X` and no other byte, `I` and every register unchanged; where `I + X`
is above 0xFFF, `MemoryOutOfRange` and no other effect (R115). -/
def Obligations.StoreRegistersWritesTheRegisters : Prop :=
  (∀ w : Word16, w &&& 0xF0FF#16 = 0xF055#16 → decode w = .storeRegisters (fieldX w)) ∧
  (∀ (x : Nibble) (s : State), s.i.toNat + x.toNat ≤ 0xFFF → ∃ t, exec (.storeRegisters x) s = .next t ∧
    (∀ z : Nibble, z.toNat ≤ x.toNat → t.readByte (s.i.toNat + z.toNat) = s.getV z) ∧
    SameMemoryOutside s.i.toNat (x.toNat + 1) s t ∧ t = { s with mem := t.mem }) ∧
  (∀ (x : Nibble) (s : State), s.i.toNat + x.toNat > 0xFFF → exec (.storeRegisters x) s = .next (faultedAtI s))

/-- load-registers: the bytes at `I` to `I + X` in `V[0]` to `V[X]`, every other register, `I` and all of memory unchanged;
where `I + X` is above 0xFFF, `MemoryOutOfRange` and no other effect (R116). -/
def Obligations.LoadRegistersReadsTheRegisters : Prop :=
  (∀ w : Word16, w &&& 0xF0FF#16 = 0xF065#16 → decode w = .loadRegisters (fieldX w)) ∧
  (∀ (x : Nibble) (s : State), s.i.toNat + x.toNat ≤ 0xFFF → ∃ t, exec (.loadRegisters x) s = .next t ∧
    (∀ z : Nibble, z.toNat ≤ x.toNat → t.getV z = s.readByte (s.i.toNat + z.toNat)) ∧
    (∀ z : Nibble, x.toNat < z.toNat → t.getV z = s.getV z) ∧ t = { s with v := t.v } ∧ SameMemory s t) ∧
  (∀ (x : Nibble) (s : State), s.i.toNat + x.toNat > 0xFFF → exec (.loadRegisters x) s = .next (faultedAtI s))

/-- store-registers and then load-registers with the same `X` change no register: R117, which the spec derives from R115 and
R116. -/
def Obligations.StoreThenLoadRegistersKeepsThem : Prop :=
  ∀ (x : Nibble) (s : State), s.i.toNat + x.toNat ≤ 0xFFF →
    ∃ t, exec (.storeRegisters x) s = .next t ∧ exec (.loadRegisters x) t = .next t ∧ t.v = s.v

/-- An instruction that store-registers writes over the next word is what the next tick executes: R58 and R156, which the
spec derives from R56 and R77. -/
def Obligations.StoredInstructionIsFetchedNext : Prop :=
  ∀ (x : Nibble) (s : State), s.nextOp = .tick → s.fault = none → s.wait = none → s.skip = false → 1 ≤ x.toNat →
    s.i.toNat + x.toNat ≤ 0xFFF → s.pc = s.i →
    ∃ t, exec (.storeRegisters x) s = .next t ∧
      step t = exec (decode (s.getV 0#4 ++ s.getV 1#4)) (afterFetch t s.pc)

/-- `I` changes only by the four instructions of R29 and by a reset; D29 is the spec's decision. -/
def Obligations.IndexIsWrittenOnlyAsListed : Prop :=
  ∀ s t : State, step s = .next t → t.i = s.i ∨ resets s ∨
    ∃ a, (∃ nnn, fetches s a (.loadIndex nnn) ∨ fetches s a (.jumpOffset nnn)) ∨
      ∃ x, fetches s a (.addToIndex x) ∨ fetches s a (.loadFontSprite x)

/-! ### Display, keypad, timers -/

/-- draw: one draw request with `V[X]`, `V[Y]`, `N` and the `N` bytes at `I`, and the display's answer in `VF`; `I`, memory
and every other register unchanged; where `N > 0` and `I + N - 1` is above 0xFFF, `MemoryOutOfRange`, no request and no other
effect: R118. The answer is a free value (D24, entry 2). -/
def Obligations.DrawPassesTheSpriteAndWritesCollision : Prop :=
  (∀ w : Word16, w &&& 0xF000#16 = 0xD000#16 → decode w = .draw (fieldX w) (fieldY w) (fieldN w)) ∧
  (∀ (x y n : Nibble) (s : State), n = 0#4 ∨ s.i.toNat + n.toNat - 1 ≤ 0xFFF →
    ∃ t bytes, exec (.draw x y n) s = .next t ∧
      bytes.length = n.toNat ∧ (∀ k, k < n.toNat → bytes[k]? = some (s.readByte (s.i.toNat + k))) ∧
      t.ports = .draw (s.getV x) (s.getV y) n bytes :: s.ports ∧
      t.getV 15#4 = (if Config.collision s.ports.length (s.getV x) (s.getV y) bytes = true then 1 else 0) ∧
      SameRegsExcept [15#4] s t ∧ t = { s with v := t.v, ports := t.ports } ∧ SameMemory s t) ∧
  (∀ (x y n : Nibble) (s : State), n.toNat > 0 → s.i.toNat + n.toNat - 1 > 0xFFF →
    exec (.draw x y n) s = .next (faultedAtI s))

/-- The key skips ask the input port about the full byte `V[X]`, once, and write the pending-skip flag with the answer or its
negation; nothing else changes: R119, R120. The answer is a free value (D9, entry 2). -/
def Obligations.KeySkipsWriteTheSkipFlag : Prop :=
  (∀ w : Word16, w &&& 0xF0FF#16 = 0xE09E#16 → decode w = .skipKeyPressed (fieldX w)) ∧
  (∀ w : Word16, w &&& 0xF0FF#16 = 0xE0A1#16 → decode w = .skipKeyNotPressed (fieldX w)) ∧
  ∀ (x : Nibble) (s : State) (pressed : Bool), pressed = Config.keyPressed s.ports.length (s.getV x) →
    exec (.skipKeyPressed x) s =
      .next { s with skip := pressed, ports := .keyPressed (s.getV x) :: s.ports } ∧
    exec (.skipKeyNotPressed x) s =
      .next { s with skip := !pressed, ports := .keyPressed (s.getV x) :: s.ports }

/-- block-on-key sets the key-wait latch and changes nothing else; then ticks change nothing until a key event writes the key
to `V[X]` and clears the latch: R121, R133, the spec's decisions D7, D8. -/
def Obligations.BlockOnKeyWaitsForAKeyEvent : Prop :=
  (∀ w : Word16, w &&& 0xF0FF#16 = 0xF00A#16 → decode w = .blockOnKey (fieldX w)) ∧
  ∀ (x : Nibble) (s : State), ∃ t, exec (.blockOnKey x) s = .next t ∧ t = { s with wait := some x } ∧
    tick t = .next t ∧
    ∀ k : Nibble, s.fault = none →
      ((keyEvent k t).getV x).toNat = k.toNat ∧ SameRegsExcept [x] s (keyEvent k t) ∧
      keyEvent k t = { s with v := (keyEvent k t).v, wait := none }

/-- The timer instructions read and write `DT` and write `ST`, and change nothing else (R122, R123, R124). -/
def Obligations.TimerInstructionsMoveTheTimers : Prop :=
  (∀ w : Word16, w &&& 0xF0FF#16 = 0xF007#16 → decode w = .readDelayTimer (fieldX w)) ∧
  (∀ w : Word16, w &&& 0xF0FF#16 = 0xF015#16 → decode w = .setDelayTimer (fieldX w)) ∧
  (∀ w : Word16, w &&& 0xF0FF#16 = 0xF018#16 → decode w = .setSoundTimer (fieldX w)) ∧
  ∀ (x : Nibble) (s : State),
    (∃ t, exec (.readDelayTimer x) s = .next t ∧ t.getV x = s.dt ∧ SameRegsExcept [x] s t ∧
      t = { s with v := t.v } ∧ SameMemory s t) ∧
    exec (.setDelayTimer x) s = .next { s with dt := s.getV x } ∧
    exec (.setSoundTimer x) s = .next { s with st := s.getV x }

/-- A key event: it completes the wait of an engine that is not faulted, and changes nothing else or otherwise: R133, the
spec's decisions D7, D8, D25. -/
def Obligations.KeyEventCompletesOnlyAWait : Prop :=
  ∀ (s : State) (k : Nibble), s.nextOp = .keyEvent k → ∃ t, step s = .next t ∧
    (∀ x, s.fault = none → s.wait = some x →
      (t.getV x).toNat = k.toNat ∧ SameRegsExcept [x] s t ∧
      t = { s with v := t.v, wait := none, schedule := s.schedule.tail }) ∧
    (s.fault ≠ none ∨ s.wait = none → t = { s with schedule := s.schedule.tail })

/-- A timer tick decrements each timer that is not zero and changes nothing else, whatever the latches hold: R136, the spec's
decisions D15, D26. -/
def Obligations.TimerTickDecrementsBothTimers : Prop :=
  ∀ s : State, s.nextOp = .timerTick → ∃ t, step s = .next t ∧
    t.dt.toNat = s.dt.toNat - 1 ∧ t.st.toNat = s.st.toNat - 1 ∧
    t = { s with dt := t.dt, st := t.st, schedule := s.schedule.tail }

/-! ### Faults -/

/-- The execute step raises exactly the faults of the cause table, each with its record, and no other instruction faults:
R126, R127, with the spec's decisions D11, D13. -/
def Obligations.FaultsAreThoseOfTheCauseTable : Prop :=
  ∀ (i : Instr) (s : State), s.fault = none → ∃ t, exec i s = .next t ∧
    t.fault.map (fun r => (r.kind, r.addr.map BitVec.toNat)) = faultCause i s ∧
    ∀ r, t.fault = some r → r.instrAddr = s.pc - 2

/-- An instruction that faults has no other effect, on the ports either: R81, the spec's decision D14. -/
def Obligations.FaultingInstructionHasNoOtherEffect : Prop :=
  ∀ (i : Instr) (s t : State) (r : FaultRecord), s.fault = none → exec i s = .next t → t.fault = some r →
    t = { s with fault := some r }

/-- A faulted engine stays as it is, but for its timers, until a reset or an accepted ROM load: R128, R131, the spec's
decision D12. -/
def Obligations.FaultIsLeftOnlyByAReset : Prop :=
  ∀ (s : State) (r : FaultRecord), s.fault = some r → ∃ t, step s = .next t ∧
    (resets s → t.fault = none) ∧
    (¬ resets s → t = { s with dt := t.dt, st := t.st, schedule := s.schedule.tail } ∧
      (s.nextOp ≠ .timerTick → t.dt = s.dt ∧ t.st = s.st))

/-! ### What writes each piece of state -/

/-- The pending-skip flag is set only by the six skip instructions, cleared only by its consumption and by a reset, and read
by no instruction (R35). The last clause compares two execute steps after equally many port calls, so both get the same answers
from the collaborators: that is the model's choice (entry 2). -/
def Obligations.SkipFlagIsSetOnlyBySixInstructions : Prop :=
  (∀ s t : State, step s = .next t →
    (s.skip = false → t.skip = true → ∃ a i, fetches s a i ∧ writesSkip i = true) ∧
    (s.skip = true → t.skip = false → resets s ∨ (s.nextOp = .tick ∧ s.fault = none ∧ s.wait = none))) ∧
  (∀ (i : Instr) (s : State) (b : Bool), ∃ t, exec i s = .next t ∧
    exec i { s with skip := b } = .next { t with skip := if writesSkip i then t.skip else b })

/-- The call stack changes only by call (one entry more, never above the capacity), by return (one entry less) and by a
reset: R37, R38, R39, with the spec's decisions D2, D3, D12. -/
def Obligations.StackChangesOnlyByCallAndReturn : Prop :=
  ∀ s t : State, step s = .next t → t.stack = s.stack ∨ (resets s ∧ t.stack = []) ∨
    (∃ a nnn, fetches s a (.call nnn) ∧ t.stack = (a + 2) :: s.stack ∧
      s.stack.length < s.params.stackDepth.entries) ∨
    (∃ a, fetches s a .ret ∧ s.stack = t.pc :: t.stack)

/-- `DT` is written by `FX15` and read by `FX07`, `ST` is written by `FX18` and read by no instruction, and both count down,
never below 0, by the timer tick alone (R40). The clauses that say an instruction does not read a timer compare two execute
steps after equally many port calls, so both get the same answers from the collaborators: that is the model's choice (entry
2). -/
def Obligations.TimersAreReadAndWrittenOnlyAsListed : Prop :=
  (∀ (x : Nibble) (s : State), exec (.setDelayTimer x) s = .next { s with dt := s.getV x } ∧
    exec (.setSoundTimer x) s = .next { s with st := s.getV x } ∧
    ∃ t, exec (.readDelayTimer x) s = .next t ∧ t.getV x = s.dt) ∧
  (∀ (i : Instr) (s : State), ∃ t, exec i s = .next t ∧
    (∀ b, (∀ x, i ≠ .readDelayTimer x) → (∀ x, i ≠ .setDelayTimer x) →
      exec i { s with dt := b } = .next { t with dt := b }) ∧
    (∀ b, (∀ x, i ≠ .setSoundTimer x) → exec i { s with st := b } = .next { t with st := b })) ∧
  (∀ s t : State, step s = .next t → ¬ resets s → s.nextOp ≠ .timerTick →
    ((∀ a x, ¬ fetches s a (.setDelayTimer x)) → t.dt = s.dt) ∧
    ((∀ a x, ¬ fetches s a (.setSoundTimer x)) → t.st = s.st)) ∧
  (∀ s t : State, step s = .next t → s.nextOp = .timerTick →
    t.dt.toNat = s.dt.toNat - 1 ∧ t.st.toNat = s.st.toNat - 1)

/-- A byte of memory changes only where store-bcd or store-registers stores, and by a reset or an accepted ROM load: R46,
which the spec derives from the instruction rules. -/
def Obligations.MemoryIsWrittenOnlyByTheStores : Prop :=
  ∀ (s t : State) (b : Nat), step s = .next t → t.readByte b ≠ s.readByte b → resets s ∨
    (∃ a x, fetches s a (.storeBcd x) ∧ s.i.toNat ≤ b ∧ b < s.i.toNat + 3) ∨
    (∃ a x, fetches s a (.storeRegisters x) ∧ s.i.toNat ≤ b ∧ b ≤ s.i.toNat + x.toNat)

/-- The key-wait latch is set only by block-on-key and cleared only by a key event and by a reset: R41, the spec's decision
D7. -/
def Obligations.WaitLatchIsWrittenOnlyAsListed : Prop :=
  ∀ s t : State, step s = .next t → t.wait = s.wait ∨ (resets s ∧ t.wait = none) ∨
    (∃ a x, fetches s a (.blockOnKey x) ∧ t.wait = some x) ∨
    (∃ k, s.nextOp = .keyEvent k ∧ s.fault = none ∧ t.wait = none)

/-- A step makes at most one call on a collaborator port, and only by the five instructions that have one: R139. That the
calls stand in the state, the latest first, is the model's choice (entry 2). -/
def Obligations.PortsAreDrivenOnlyByTheirInstructions : Prop :=
  ∀ s t : State, step s = .next t → t.ports = s.ports ∨ ∃ a c, t.ports = c :: s.ports ∧
    match c with
    | .clear => fetches s a .clearScreen
    | .draw _ _ n _ => ∃ x y, fetches s a (.draw x y n)
    | .keyPressed _ => ∃ x, fetches s a (.skipKeyPressed x) ∨ fetches s a (.skipKeyNotPressed x)
    | .rand => ∃ x nn, fetches s a (.randomAnd x nn)

/-! ### Memory -/

/-- A byte read after a byte write: the byte written, and every other byte as before (20_memory.md R56). -/
def Obligations.ReadAfterWriteReturnsTheByte : Prop :=
  ∀ (s : State) (a : Nat) (b : Byte), (s.writeByte a b).readByte a = b ∧
    ∀ c, c ≠ a → (s.writeByte a b).readByte c = s.readByte c

/-- The canonical form is canonical: two canonical memories whose bytes read the same are the same list. The form is the
model's (entry 6). -/
def Obligations.CanonicalMemoryIsDeterminedByItsBytes : Prop :=
  ∀ (fb : Nat) (m m' : Memory), m.wf fb → m'.wf fb → (∀ a, m.read fb a = m'.read fb a) → m = m'
end

