-- ==== Sys2Proof/Laws/Decode.lean ====
section
/-! SUPPORT. Words as nibbles: the three forms, masks of a word nibble by nibble, the decoder on a form, and that the
decoder and the opcode map of 30_encoding.md R69 select the same words. -/

namespace Sys2Proof

/-! ### Forms and fields -/

theorem formXYN_getLsbD (t x y n : Nibble) (k : Nat) :
    (formXYN t x y n).getLsbD k = if k < 4 then n.getLsbD k else if k < 8 then y.getLsbD (k - 4)
      else if k < 12 then x.getLsbD (k - 8) else t.getLsbD (k - 12) := by
  simp only [formXYN, BitVec.getLsbD_append]
  grind

/-- A word is its four nibbles (R60). -/
theorem formXYN_eta (w : Word16) : formXYN (topNibble w) (fieldX w) (fieldY w) (fieldN w) = w := by
  apply BitVec.eq_of_getLsbD_eq
  intro k hk
  simp only [formXYN_getLsbD, topNibble, fieldX, fieldY, fieldN, BitVec.getLsbD_extractLsb']
  split_ifs <;> grind

@[simp] theorem topNibble_formXYN (t x y n : Nibble) : topNibble (formXYN t x y n) = t := by
  apply BitVec.eq_of_getLsbD_eq
  intro k hk
  simp only [topNibble, BitVec.getLsbD_extractLsb', formXYN_getLsbD]
  grind

@[simp] theorem fieldX_formXYN (t x y n : Nibble) : fieldX (formXYN t x y n) = x := by
  apply BitVec.eq_of_getLsbD_eq
  intro k hk
  simp only [fieldX, BitVec.getLsbD_extractLsb', formXYN_getLsbD]
  grind

@[simp] theorem fieldY_formXYN (t x y n : Nibble) : fieldY (formXYN t x y n) = y := by
  apply BitVec.eq_of_getLsbD_eq
  intro k hk
  simp only [fieldY, BitVec.getLsbD_extractLsb', formXYN_getLsbD]
  grind

@[simp] theorem fieldN_formXYN (t x y n : Nibble) : fieldN (formXYN t x y n) = n := by
  apply BitVec.eq_of_getLsbD_eq
  intro k hk
  simp only [fieldN, BitVec.getLsbD_extractLsb', formXYN_getLsbD]
  grind

/-- Two words are equal when their nibbles are. -/
theorem formXYN_inj {t x y n t' x' y' n' : Nibble} :
    formXYN t x y n = formXYN t' x' y' n' ↔ t = t' ∧ x = x' ∧ y = y' ∧ n = n' := by
  constructor
  · intro h
    have h1 := congrArg topNibble h
    have h2 := congrArg fieldX h
    have h3 := congrArg fieldY h
    have h4 := congrArg fieldN h
    simp only [topNibble_formXYN, fieldX_formXYN, fieldY_formXYN, fieldN_formXYN] at h1 h2 h3 h4
    exact ⟨h1, h2, h3, h4⟩
  · rintro ⟨rfl, rfl, rfl, rfl⟩
    rfl

/-- A mask acts nibble by nibble. -/
theorem formXYN_and (t x y n a b c d : Nibble) :
    formXYN t x y n &&& formXYN a b c d = formXYN (t &&& a) (x &&& b) (y &&& c) (n &&& d) := by
  apply BitVec.eq_of_getLsbD_eq
  intro k hk
  simp only [BitVec.getLsbD_and, formXYN_getLsbD]
  split_ifs <;> rfl

/-- `NN` is the two low nibbles (R60). -/
theorem fieldNN_eq (w : Word16) : fieldNN w = fieldY w ++ fieldN w := by
  apply BitVec.eq_of_getLsbD_eq
  intro k hk
  simp only [fieldNN, fieldY, fieldN, BitVec.getLsbD_append, BitVec.getLsbD_extractLsb']
  grind

theorem topNibble_formXNN (t x : Nibble) (nn : Byte) : topNibble (formXNN t x nn) = t := by
  apply BitVec.eq_of_getLsbD_eq
  intro k hk
  simp only [topNibble, formXNN, BitVec.getLsbD_extractLsb', BitVec.getLsbD_append]
  grind

theorem fieldX_formXNN (t x : Nibble) (nn : Byte) : fieldX (formXNN t x nn) = x := by
  apply BitVec.eq_of_getLsbD_eq
  intro k hk
  simp only [fieldX, formXNN, BitVec.getLsbD_extractLsb', BitVec.getLsbD_append]
  grind

theorem fieldNN_formXNN (t x : Nibble) (nn : Byte) : fieldNN (formXNN t x nn) = nn := by
  apply BitVec.eq_of_getLsbD_eq
  intro k hk
  simp only [fieldNN, formXNN, BitVec.getLsbD_extractLsb', BitVec.getLsbD_append]
  grind

theorem topNibble_formNNN (t : Nibble) (nnn : Addr12) : topNibble (formNNN t nnn) = t := by
  apply BitVec.eq_of_getLsbD_eq
  intro k hk
  simp only [topNibble, formNNN, BitVec.getLsbD_extractLsb', BitVec.getLsbD_append]
  grind

theorem fieldNNN_formNNN (t : Nibble) (nnn : Addr12) : fieldNNN (formNNN t nnn) = nnn := by
  apply BitVec.eq_of_getLsbD_eq
  intro k hk
  simp only [fieldNNN, formNNN, BitVec.getLsbD_extractLsb', BitVec.getLsbD_append]
  grind

/-- A word is a given one when its nibbles are. -/
theorem formXYN_eq_iff {t x y n : Nibble} {k : Word16} :
    formXYN t x y n = k ↔ t = topNibble k ∧ x = fieldX k ∧ y = fieldY k ∧ n = fieldN k := by
  conv_lhs => rw [← formXYN_eta k]
  exact formXYN_inj

/-! ### The identifier (R64) -/

theorem nibble_and_F (a : Nibble) : a &&& 0xF#4 = a := BitVec.and_allOnes

/-- The masks of R64, nibble by nibble. -/
theorem and_F000 (w : Word16) : w &&& 0xF000#16 = formXYN (topNibble w) 0#4 0#4 0#4 := by
  conv_lhs => rw [← formXYN_eta w, show 0xF000#16 = formXYN 0xF#4 0#4 0#4 0#4 from rfl, formXYN_and]
  simp [nibble_and_F]

theorem and_F00F (w : Word16) : w &&& 0xF00F#16 = formXYN (topNibble w) 0#4 0#4 (fieldN w) := by
  conv_lhs => rw [← formXYN_eta w, show 0xF00F#16 = formXYN 0xF#4 0#4 0#4 0xF#4 from rfl, formXYN_and]
  simp [nibble_and_F]

theorem and_F0FF (w : Word16) : w &&& 0xF0FF#16 = formXYN (topNibble w) 0#4 (fieldY w) (fieldN w) := by
  conv_lhs => rw [← formXYN_eta w, show 0xF0FF#16 = formXYN 0xF#4 0#4 0xF#4 0xF#4 from rfl, formXYN_and]
  simp [nibble_and_F]

theorem and_00FF (w : Word16) : w &&& 0x00FF#16 = formXYN 0#4 0#4 (fieldY w) (fieldN w) := by
  conv_lhs => rw [← formXYN_eta w, show 0x00FF#16 = formXYN 0#4 0#4 0xF#4 0xF#4 from rfl, formXYN_and]
  simp [nibble_and_F]

/-- A form with a low byte is the form with that byte's nibbles. -/
theorem formXNN_eq (t x : Nibble) (nn : Byte) :
    formXNN t x nn = formXYN t x (nn.extractLsb' 4 4) (nn.extractLsb' 0 4) := by
  apply BitVec.eq_of_getLsbD_eq
  intro k hk
  simp only [formXNN, formXYN_getLsbD, BitVec.getLsbD_append, BitVec.getLsbD_extractLsb']
  grind

theorem and_F0FF_formXNN (t x : Nibble) (nn : Byte) :
    formXNN t x nn &&& 0xF0FF#16 = formXYN t 0#4 (nn.extractLsb' 4 4) (nn.extractLsb' 0 4) := by
  rw [formXNN_eq, and_F0FF]
  simp

/-- The identifier nibble by nibble. -/
theorem ident_eq (w : Word16) :
    ident w = if topNibble w = 0x8#4 then formXYN 0x8#4 0#4 0#4 (fieldN w)
      else if topNibble w = 0xE#4 ∨ topNibble w = 0xF#4 ∨ topNibble w = 0x0#4 then
        formXYN (topNibble w) 0#4 (fieldY w) (fieldN w)
      else formXYN (topNibble w) 0#4 0#4 0#4 := by
  simp only [ident, and_F000, and_F00F, and_F0FF, and_00FF]
  grind

/-- The mask of the group of a top nibble: R64 with R65, and R66 with the top nibble kept. -/
def groupMask (t : Nibble) : Word16 :=
  if t = 0x8#4 then 0xF00F#16 else if t = 0xE#4 ∨ t = 0xF#4 ∨ t = 0x0#4 then 0xF0FF#16 else 0xF000#16

theorem ident_eq_groupMask (w : Word16) : ident w = w &&& groupMask (topNibble w) := by
  simp only [ident_eq, groupMask]
  split_ifs with h1 h2
  · rw [and_F00F, h1]
  · rw [and_F0FF]
  · rw [and_F000]

/-- Every group's mask keeps the top nibble. -/
theorem topNibble_and_groupMask (w : Word16) (t : Nibble) : topNibble (w &&& groupMask t) = topNibble w := by
  unfold groupMask
  split_ifs <;> simp only [and_F00F, and_F0FF, and_F000, topNibble_formXYN]

/-- Every row of R69 has its group's mask, and its identifier is its match. -/
theorem opcodeMap_groups : ∀ r ∈ opcodeMap, r.mask = groupMask (topNibble r.pattern) ∧ r.ident = r.pattern := by
  decide

/-- Each (match, mask) pair of R69 selects the words the decoder gives the pair's identifier. -/
theorem selects_iff_ident {r : OpRow} (hr : r ∈ opcodeMap) (w : Word16) : r.selects w = true ↔ ident w = r.ident := by
  obtain ⟨hm, hi⟩ := opcodeMap_groups r hr
  simp only [OpRow.selects, beq_iff_eq, ident_eq_groupMask, hm, hi]
  constructor <;> intro h
  · rw [← topNibble_and_groupMask w (topNibble r.pattern), h]
    exact h
  · rw [← h, topNibble_and_groupMask, h]

/-- The word `w` is one of the row with this identifier. -/
theorem ident_of_selects {w k m : Word16} (hr : ⟨k, k, m⟩ ∈ opcodeMap) (h : w &&& m = k) : ident w = k :=
  (selects_iff_ident hr w).mp (by simpa [OpRow.selects] using h)

/-- The decoder calls unhandled exactly the words no row selects (R70). -/
theorem decode_unhandled {w : Word16} (h : handled w = false) : decode w = .unhandled w := by
  have hne : ∀ r ∈ opcodeMap, ident w ≠ r.ident := fun r hr he => by
    have := (selects_iff_ident hr w).mpr he
    simp only [handled, List.any_eq_false] at h
    exact h r hr this
  simp only [opcodeMap, flowRows, skipRows, loadRows, aluRows, keyRows, systemRows, List.cons_append, List.nil_append,
    List.forall_mem_cons] at hne
  unfold decode
  split <;> first | rfl | (exfalso; simp_all only [ne_eq, not_true_eq_false, false_and, and_false])

/-! ### The words of each row decode to its instruction, operands from the raw word (R61, R69) -/

theorem decode_clearScreen {w : Word16} (h : w &&& 0xF0FF#16 = 0x00E0#16) : decode w = .clearScreen := by
  simp [decode, ident_of_selects (by decide) h]

theorem decode_ret {w : Word16} (h : w &&& 0xF0FF#16 = 0x00EE#16) : decode w = .ret := by
  simp [decode, ident_of_selects (by decide) h]

theorem decode_jump {w : Word16} (h : w &&& 0xF000#16 = 0x1000#16) : decode w = .jump (fieldNNN w) := by
  simp [decode, ident_of_selects (by decide) h]

theorem decode_call {w : Word16} (h : w &&& 0xF000#16 = 0x2000#16) : decode w = .call (fieldNNN w) := by
  simp [decode, ident_of_selects (by decide) h]

theorem decode_skipEqConst {w : Word16} (h : w &&& 0xF000#16 = 0x3000#16) : decode w = .skipEqConst (fieldX w) (fieldNN w) := by
  simp [decode, ident_of_selects (by decide) h]

theorem decode_skipNeqConst {w : Word16} (h : w &&& 0xF000#16 = 0x4000#16) : decode w = .skipNeqConst (fieldX w) (fieldNN w) := by
  simp [decode, ident_of_selects (by decide) h]

theorem decode_skipEqReg {w : Word16} (h : w &&& 0xF000#16 = 0x5000#16) : decode w = .skipEqReg (fieldX w) (fieldY w) := by
  simp [decode, ident_of_selects (by decide) h]

theorem decode_loadConst {w : Word16} (h : w &&& 0xF000#16 = 0x6000#16) : decode w = .loadConst (fieldX w) (fieldNN w) := by
  simp [decode, ident_of_selects (by decide) h]

theorem decode_addConst {w : Word16} (h : w &&& 0xF000#16 = 0x7000#16) : decode w = .addConst (fieldX w) (fieldNN w) := by
  simp [decode, ident_of_selects (by decide) h]

theorem decode_copy {w : Word16} (h : w &&& 0xF00F#16 = 0x8000#16) : decode w = .copy (fieldX w) (fieldY w) := by
  simp [decode, ident_of_selects (by decide) h]

theorem decode_orReg {w : Word16} (h : w &&& 0xF00F#16 = 0x8001#16) : decode w = .orReg (fieldX w) (fieldY w) := by
  simp [decode, ident_of_selects (by decide) h]

theorem decode_andReg {w : Word16} (h : w &&& 0xF00F#16 = 0x8002#16) : decode w = .andReg (fieldX w) (fieldY w) := by
  simp [decode, ident_of_selects (by decide) h]

theorem decode_xorReg {w : Word16} (h : w &&& 0xF00F#16 = 0x8003#16) : decode w = .xorReg (fieldX w) (fieldY w) := by
  simp [decode, ident_of_selects (by decide) h]

theorem decode_addReg {w : Word16} (h : w &&& 0xF00F#16 = 0x8004#16) : decode w = .addReg (fieldX w) (fieldY w) := by
  simp [decode, ident_of_selects (by decide) h]

theorem decode_subReg {w : Word16} (h : w &&& 0xF00F#16 = 0x8005#16) : decode w = .subReg (fieldX w) (fieldY w) := by
  simp [decode, ident_of_selects (by decide) h]

theorem decode_shiftRight {w : Word16} (h : w &&& 0xF00F#16 = 0x8006#16) : decode w = .shiftRight (fieldX w) (fieldY w) := by
  simp [decode, ident_of_selects (by decide) h]

theorem decode_subRegReverse {w : Word16} (h : w &&& 0xF00F#16 = 0x8007#16) : decode w = .subRegReverse (fieldX w) (fieldY w) := by
  simp [decode, ident_of_selects (by decide) h]

theorem decode_shiftLeft {w : Word16} (h : w &&& 0xF00F#16 = 0x800E#16) : decode w = .shiftLeft (fieldX w) (fieldY w) := by
  simp [decode, ident_of_selects (by decide) h]

theorem decode_skipNeqReg {w : Word16} (h : w &&& 0xF000#16 = 0x9000#16) : decode w = .skipNeqReg (fieldX w) (fieldY w) := by
  simp [decode, ident_of_selects (by decide) h]

theorem decode_loadIndex {w : Word16} (h : w &&& 0xF000#16 = 0xA000#16) : decode w = .loadIndex (fieldNNN w) := by
  simp [decode, ident_of_selects (by decide) h]

theorem decode_jumpOffset {w : Word16} (h : w &&& 0xF000#16 = 0xB000#16) : decode w = .jumpOffset (fieldNNN w) := by
  simp [decode, ident_of_selects (by decide) h]

theorem decode_randomAnd {w : Word16} (h : w &&& 0xF000#16 = 0xC000#16) : decode w = .randomAnd (fieldX w) (fieldNN w) := by
  simp [decode, ident_of_selects (by decide) h]

theorem decode_draw {w : Word16} (h : w &&& 0xF000#16 = 0xD000#16) : decode w = .draw (fieldX w) (fieldY w) (fieldN w) := by
  simp [decode, ident_of_selects (by decide) h]

theorem decode_skipKeyPressed {w : Word16} (h : w &&& 0xF0FF#16 = 0xE09E#16) : decode w = .skipKeyPressed (fieldX w) := by
  simp [decode, ident_of_selects (by decide) h]

theorem decode_skipKeyNotPressed {w : Word16} (h : w &&& 0xF0FF#16 = 0xE0A1#16) : decode w = .skipKeyNotPressed (fieldX w) := by
  simp [decode, ident_of_selects (by decide) h]

theorem decode_readDelayTimer {w : Word16} (h : w &&& 0xF0FF#16 = 0xF007#16) : decode w = .readDelayTimer (fieldX w) := by
  simp [decode, ident_of_selects (by decide) h]

theorem decode_blockOnKey {w : Word16} (h : w &&& 0xF0FF#16 = 0xF00A#16) : decode w = .blockOnKey (fieldX w) := by
  simp [decode, ident_of_selects (by decide) h]

theorem decode_setDelayTimer {w : Word16} (h : w &&& 0xF0FF#16 = 0xF015#16) : decode w = .setDelayTimer (fieldX w) := by
  simp [decode, ident_of_selects (by decide) h]

theorem decode_setSoundTimer {w : Word16} (h : w &&& 0xF0FF#16 = 0xF018#16) : decode w = .setSoundTimer (fieldX w) := by
  simp [decode, ident_of_selects (by decide) h]

theorem decode_addToIndex {w : Word16} (h : w &&& 0xF0FF#16 = 0xF01E#16) : decode w = .addToIndex (fieldX w) := by
  simp [decode, ident_of_selects (by decide) h]

theorem decode_loadFontSprite {w : Word16} (h : w &&& 0xF0FF#16 = 0xF029#16) : decode w = .loadFontSprite (fieldX w) := by
  simp [decode, ident_of_selects (by decide) h]

theorem decode_storeBcd {w : Word16} (h : w &&& 0xF0FF#16 = 0xF033#16) : decode w = .storeBcd (fieldX w) := by
  simp [decode, ident_of_selects (by decide) h]

theorem decode_storeRegisters {w : Word16} (h : w &&& 0xF0FF#16 = 0xF055#16) : decode w = .storeRegisters (fieldX w) := by
  simp [decode, ident_of_selects (by decide) h]

theorem decode_loadRegisters {w : Word16} (h : w &&& 0xF0FF#16 = 0xF065#16) : decode w = .loadRegisters (fieldX w) := by
  simp [decode, ident_of_selects (by decide) h]

end Sys2Proof
end

