-- ==== Sys2Proof/Laws/State.lean ====
section
/-! SUPPORT. What each named update of the state leaves in each field, one lemma per field per update: a later proof never
unfolds a record update. -/

namespace Sys2Proof.Machine.State

variable (s : State)

/-! ### `setV` -/

@[simp] theorem setV_v (x : Nibble) (b : Byte) : (s.setV x b).v = s.v.set x.toNat b x.isLt := rfl
@[simp] theorem setV_i (x : Nibble) (b : Byte) : (s.setV x b).i = s.i := rfl
@[simp] theorem setV_pc (x : Nibble) (b : Byte) : (s.setV x b).pc = s.pc := rfl
@[simp] theorem setV_skip (x : Nibble) (b : Byte) : (s.setV x b).skip = s.skip := rfl
@[simp] theorem setV_stack (x : Nibble) (b : Byte) : (s.setV x b).stack = s.stack := rfl
@[simp] theorem setV_dt (x : Nibble) (b : Byte) : (s.setV x b).dt = s.dt := rfl
@[simp] theorem setV_st (x : Nibble) (b : Byte) : (s.setV x b).st = s.st := rfl
@[simp] theorem setV_mem (x : Nibble) (b : Byte) : (s.setV x b).mem = s.mem := rfl
@[simp] theorem setV_wait (x : Nibble) (b : Byte) : (s.setV x b).wait = s.wait := rfl
@[simp] theorem setV_fault (x : Nibble) (b : Byte) : (s.setV x b).fault = s.fault := rfl
@[simp] theorem setV_params (x : Nibble) (b : Byte) : (s.setV x b).params = s.params := rfl
@[simp] theorem setV_ports (x : Nibble) (b : Byte) : (s.setV x b).ports = s.ports := rfl
@[simp] theorem setV_schedule (x : Nibble) (b : Byte) : (s.setV x b).schedule = s.schedule := rfl

/-! ### `setI` -/

@[simp] theorem setI_v (a : Word16) : (s.setI a).v = s.v := rfl
@[simp] theorem setI_i (a : Word16) : (s.setI a).i = a := rfl
@[simp] theorem setI_pc (a : Word16) : (s.setI a).pc = s.pc := rfl
@[simp] theorem setI_skip (a : Word16) : (s.setI a).skip = s.skip := rfl
@[simp] theorem setI_stack (a : Word16) : (s.setI a).stack = s.stack := rfl
@[simp] theorem setI_dt (a : Word16) : (s.setI a).dt = s.dt := rfl
@[simp] theorem setI_st (a : Word16) : (s.setI a).st = s.st := rfl
@[simp] theorem setI_mem (a : Word16) : (s.setI a).mem = s.mem := rfl
@[simp] theorem setI_wait (a : Word16) : (s.setI a).wait = s.wait := rfl
@[simp] theorem setI_fault (a : Word16) : (s.setI a).fault = s.fault := rfl
@[simp] theorem setI_params (a : Word16) : (s.setI a).params = s.params := rfl
@[simp] theorem setI_ports (a : Word16) : (s.setI a).ports = s.ports := rfl
@[simp] theorem setI_schedule (a : Word16) : (s.setI a).schedule = s.schedule := rfl

/-! ### `setPc` -/

@[simp] theorem setPc_v (a : Word16) : (s.setPc a).v = s.v := rfl
@[simp] theorem setPc_i (a : Word16) : (s.setPc a).i = s.i := rfl
@[simp] theorem setPc_pc (a : Word16) : (s.setPc a).pc = a := rfl
@[simp] theorem setPc_skip (a : Word16) : (s.setPc a).skip = s.skip := rfl
@[simp] theorem setPc_stack (a : Word16) : (s.setPc a).stack = s.stack := rfl
@[simp] theorem setPc_dt (a : Word16) : (s.setPc a).dt = s.dt := rfl
@[simp] theorem setPc_st (a : Word16) : (s.setPc a).st = s.st := rfl
@[simp] theorem setPc_mem (a : Word16) : (s.setPc a).mem = s.mem := rfl
@[simp] theorem setPc_wait (a : Word16) : (s.setPc a).wait = s.wait := rfl
@[simp] theorem setPc_fault (a : Word16) : (s.setPc a).fault = s.fault := rfl
@[simp] theorem setPc_params (a : Word16) : (s.setPc a).params = s.params := rfl
@[simp] theorem setPc_ports (a : Word16) : (s.setPc a).ports = s.ports := rfl
@[simp] theorem setPc_schedule (a : Word16) : (s.setPc a).schedule = s.schedule := rfl

/-! ### `setSkip` -/

@[simp] theorem setSkip_v (c : Bool) : (s.setSkip c).v = s.v := rfl
@[simp] theorem setSkip_i (c : Bool) : (s.setSkip c).i = s.i := rfl
@[simp] theorem setSkip_pc (c : Bool) : (s.setSkip c).pc = s.pc := rfl
@[simp] theorem setSkip_skip (c : Bool) : (s.setSkip c).skip = c := rfl
@[simp] theorem setSkip_stack (c : Bool) : (s.setSkip c).stack = s.stack := rfl
@[simp] theorem setSkip_dt (c : Bool) : (s.setSkip c).dt = s.dt := rfl
@[simp] theorem setSkip_st (c : Bool) : (s.setSkip c).st = s.st := rfl
@[simp] theorem setSkip_mem (c : Bool) : (s.setSkip c).mem = s.mem := rfl
@[simp] theorem setSkip_wait (c : Bool) : (s.setSkip c).wait = s.wait := rfl
@[simp] theorem setSkip_fault (c : Bool) : (s.setSkip c).fault = s.fault := rfl
@[simp] theorem setSkip_params (c : Bool) : (s.setSkip c).params = s.params := rfl
@[simp] theorem setSkip_ports (c : Bool) : (s.setSkip c).ports = s.ports := rfl
@[simp] theorem setSkip_schedule (c : Bool) : (s.setSkip c).schedule = s.schedule := rfl

/-! ### `setDt` -/

@[simp] theorem setDt_v (b : Byte) : (s.setDt b).v = s.v := rfl
@[simp] theorem setDt_i (b : Byte) : (s.setDt b).i = s.i := rfl
@[simp] theorem setDt_pc (b : Byte) : (s.setDt b).pc = s.pc := rfl
@[simp] theorem setDt_skip (b : Byte) : (s.setDt b).skip = s.skip := rfl
@[simp] theorem setDt_stack (b : Byte) : (s.setDt b).stack = s.stack := rfl
@[simp] theorem setDt_dt (b : Byte) : (s.setDt b).dt = b := rfl
@[simp] theorem setDt_st (b : Byte) : (s.setDt b).st = s.st := rfl
@[simp] theorem setDt_mem (b : Byte) : (s.setDt b).mem = s.mem := rfl
@[simp] theorem setDt_wait (b : Byte) : (s.setDt b).wait = s.wait := rfl
@[simp] theorem setDt_fault (b : Byte) : (s.setDt b).fault = s.fault := rfl
@[simp] theorem setDt_params (b : Byte) : (s.setDt b).params = s.params := rfl
@[simp] theorem setDt_ports (b : Byte) : (s.setDt b).ports = s.ports := rfl
@[simp] theorem setDt_schedule (b : Byte) : (s.setDt b).schedule = s.schedule := rfl

/-! ### `setSt` -/

@[simp] theorem setSt_v (b : Byte) : (s.setSt b).v = s.v := rfl
@[simp] theorem setSt_i (b : Byte) : (s.setSt b).i = s.i := rfl
@[simp] theorem setSt_pc (b : Byte) : (s.setSt b).pc = s.pc := rfl
@[simp] theorem setSt_skip (b : Byte) : (s.setSt b).skip = s.skip := rfl
@[simp] theorem setSt_stack (b : Byte) : (s.setSt b).stack = s.stack := rfl
@[simp] theorem setSt_dt (b : Byte) : (s.setSt b).dt = s.dt := rfl
@[simp] theorem setSt_st (b : Byte) : (s.setSt b).st = b := rfl
@[simp] theorem setSt_mem (b : Byte) : (s.setSt b).mem = s.mem := rfl
@[simp] theorem setSt_wait (b : Byte) : (s.setSt b).wait = s.wait := rfl
@[simp] theorem setSt_fault (b : Byte) : (s.setSt b).fault = s.fault := rfl
@[simp] theorem setSt_params (b : Byte) : (s.setSt b).params = s.params := rfl
@[simp] theorem setSt_ports (b : Byte) : (s.setSt b).ports = s.ports := rfl
@[simp] theorem setSt_schedule (b : Byte) : (s.setSt b).schedule = s.schedule := rfl

/-! ### `setWait` -/

@[simp] theorem setWait_v (w : Option Nibble) : (s.setWait w).v = s.v := rfl
@[simp] theorem setWait_i (w : Option Nibble) : (s.setWait w).i = s.i := rfl
@[simp] theorem setWait_pc (w : Option Nibble) : (s.setWait w).pc = s.pc := rfl
@[simp] theorem setWait_skip (w : Option Nibble) : (s.setWait w).skip = s.skip := rfl
@[simp] theorem setWait_stack (w : Option Nibble) : (s.setWait w).stack = s.stack := rfl
@[simp] theorem setWait_dt (w : Option Nibble) : (s.setWait w).dt = s.dt := rfl
@[simp] theorem setWait_st (w : Option Nibble) : (s.setWait w).st = s.st := rfl
@[simp] theorem setWait_mem (w : Option Nibble) : (s.setWait w).mem = s.mem := rfl
@[simp] theorem setWait_wait (w : Option Nibble) : (s.setWait w).wait = w := rfl
@[simp] theorem setWait_fault (w : Option Nibble) : (s.setWait w).fault = s.fault := rfl
@[simp] theorem setWait_params (w : Option Nibble) : (s.setWait w).params = s.params := rfl
@[simp] theorem setWait_ports (w : Option Nibble) : (s.setWait w).ports = s.ports := rfl
@[simp] theorem setWait_schedule (w : Option Nibble) : (s.setWait w).schedule = s.schedule := rfl

/-! ### `callPort` -/

@[simp] theorem callPort_v (c : PortCall) : (s.callPort c).v = s.v := rfl
@[simp] theorem callPort_i (c : PortCall) : (s.callPort c).i = s.i := rfl
@[simp] theorem callPort_pc (c : PortCall) : (s.callPort c).pc = s.pc := rfl
@[simp] theorem callPort_skip (c : PortCall) : (s.callPort c).skip = s.skip := rfl
@[simp] theorem callPort_stack (c : PortCall) : (s.callPort c).stack = s.stack := rfl
@[simp] theorem callPort_dt (c : PortCall) : (s.callPort c).dt = s.dt := rfl
@[simp] theorem callPort_st (c : PortCall) : (s.callPort c).st = s.st := rfl
@[simp] theorem callPort_mem (c : PortCall) : (s.callPort c).mem = s.mem := rfl
@[simp] theorem callPort_wait (c : PortCall) : (s.callPort c).wait = s.wait := rfl
@[simp] theorem callPort_fault (c : PortCall) : (s.callPort c).fault = s.fault := rfl
@[simp] theorem callPort_params (c : PortCall) : (s.callPort c).params = s.params := rfl
@[simp] theorem callPort_ports (c : PortCall) : (s.callPort c).ports = c :: s.ports := rfl
@[simp] theorem callPort_schedule (c : PortCall) : (s.callPort c).schedule = s.schedule := rfl

/-! ### `writeByte` -/

@[simp] theorem writeByte_v (a : Nat) (b : Byte) : (s.writeByte a b).v = s.v := rfl
@[simp] theorem writeByte_i (a : Nat) (b : Byte) : (s.writeByte a b).i = s.i := rfl
@[simp] theorem writeByte_pc (a : Nat) (b : Byte) : (s.writeByte a b).pc = s.pc := rfl
@[simp] theorem writeByte_skip (a : Nat) (b : Byte) : (s.writeByte a b).skip = s.skip := rfl
@[simp] theorem writeByte_stack (a : Nat) (b : Byte) : (s.writeByte a b).stack = s.stack := rfl
@[simp] theorem writeByte_dt (a : Nat) (b : Byte) : (s.writeByte a b).dt = s.dt := rfl
@[simp] theorem writeByte_st (a : Nat) (b : Byte) : (s.writeByte a b).st = s.st := rfl
@[simp] theorem writeByte_mem (a : Nat) (b : Byte) : (s.writeByte a b).mem = s.mem.write s.params.fontBase.val a b := rfl
@[simp] theorem writeByte_wait (a : Nat) (b : Byte) : (s.writeByte a b).wait = s.wait := rfl
@[simp] theorem writeByte_fault (a : Nat) (b : Byte) : (s.writeByte a b).fault = s.fault := rfl
@[simp] theorem writeByte_params (a : Nat) (b : Byte) : (s.writeByte a b).params = s.params := rfl
@[simp] theorem writeByte_ports (a : Nat) (b : Byte) : (s.writeByte a b).ports = s.ports := rfl
@[simp] theorem writeByte_schedule (a : Nat) (b : Byte) : (s.writeByte a b).schedule = s.schedule := rfl

/-! ### `raise` -/

@[simp] theorem raise_v (k : FaultKind) (p : Word16) (a : Option Word16) : (s.raise k p a).v = s.v := rfl
@[simp] theorem raise_i (k : FaultKind) (p : Word16) (a : Option Word16) : (s.raise k p a).i = s.i := rfl
@[simp] theorem raise_pc (k : FaultKind) (p : Word16) (a : Option Word16) : (s.raise k p a).pc = s.pc := rfl
@[simp] theorem raise_skip (k : FaultKind) (p : Word16) (a : Option Word16) : (s.raise k p a).skip = s.skip := rfl
@[simp] theorem raise_stack (k : FaultKind) (p : Word16) (a : Option Word16) : (s.raise k p a).stack = s.stack := rfl
@[simp] theorem raise_dt (k : FaultKind) (p : Word16) (a : Option Word16) : (s.raise k p a).dt = s.dt := rfl
@[simp] theorem raise_st (k : FaultKind) (p : Word16) (a : Option Word16) : (s.raise k p a).st = s.st := rfl
@[simp] theorem raise_mem (k : FaultKind) (p : Word16) (a : Option Word16) : (s.raise k p a).mem = s.mem := rfl
@[simp] theorem raise_wait (k : FaultKind) (p : Word16) (a : Option Word16) : (s.raise k p a).wait = s.wait := rfl
@[simp] theorem raise_fault (k : FaultKind) (p : Word16) (a : Option Word16) : (s.raise k p a).fault = some ⟨k, p, a⟩ := rfl
@[simp] theorem raise_params (k : FaultKind) (p : Word16) (a : Option Word16) : (s.raise k p a).params = s.params := rfl
@[simp] theorem raise_ports (k : FaultKind) (p : Word16) (a : Option Word16) : (s.raise k p a).ports = s.ports := rfl
@[simp] theorem raise_schedule (k : FaultKind) (p : Word16) (a : Option Word16) : (s.raise k p a).schedule = s.schedule := rfl

/-! ### `raiseExec` -/

@[simp] theorem raiseExec_v (k : FaultKind) (a : Option Word16) : (s.raiseExec k a).v = s.v := rfl
@[simp] theorem raiseExec_i (k : FaultKind) (a : Option Word16) : (s.raiseExec k a).i = s.i := rfl
@[simp] theorem raiseExec_pc (k : FaultKind) (a : Option Word16) : (s.raiseExec k a).pc = s.pc := rfl
@[simp] theorem raiseExec_skip (k : FaultKind) (a : Option Word16) : (s.raiseExec k a).skip = s.skip := rfl
@[simp] theorem raiseExec_stack (k : FaultKind) (a : Option Word16) : (s.raiseExec k a).stack = s.stack := rfl
@[simp] theorem raiseExec_dt (k : FaultKind) (a : Option Word16) : (s.raiseExec k a).dt = s.dt := rfl
@[simp] theorem raiseExec_st (k : FaultKind) (a : Option Word16) : (s.raiseExec k a).st = s.st := rfl
@[simp] theorem raiseExec_mem (k : FaultKind) (a : Option Word16) : (s.raiseExec k a).mem = s.mem := rfl
@[simp] theorem raiseExec_wait (k : FaultKind) (a : Option Word16) : (s.raiseExec k a).wait = s.wait := rfl
@[simp] theorem raiseExec_fault (k : FaultKind) (a : Option Word16) : (s.raiseExec k a).fault = some ⟨k, s.pc - 2, a⟩ := rfl
@[simp] theorem raiseExec_params (k : FaultKind) (a : Option Word16) : (s.raiseExec k a).params = s.params := rfl
@[simp] theorem raiseExec_ports (k : FaultKind) (a : Option Word16) : (s.raiseExec k a).ports = s.ports := rfl
@[simp] theorem raiseExec_schedule (k : FaultKind) (a : Option Word16) : (s.raiseExec k a).schedule = s.schedule := rfl

/-! ### `setFlagResult` -/

@[simp] theorem setFlagResult_v (x : Nibble) (f r : Byte) : (s.setFlagResult x f r).v = ((s.setV vF f).setV x r).v := rfl
@[simp] theorem setFlagResult_i (x : Nibble) (f r : Byte) : (s.setFlagResult x f r).i = s.i := rfl
@[simp] theorem setFlagResult_pc (x : Nibble) (f r : Byte) : (s.setFlagResult x f r).pc = s.pc := rfl
@[simp] theorem setFlagResult_skip (x : Nibble) (f r : Byte) : (s.setFlagResult x f r).skip = s.skip := rfl
@[simp] theorem setFlagResult_stack (x : Nibble) (f r : Byte) : (s.setFlagResult x f r).stack = s.stack := rfl
@[simp] theorem setFlagResult_dt (x : Nibble) (f r : Byte) : (s.setFlagResult x f r).dt = s.dt := rfl
@[simp] theorem setFlagResult_st (x : Nibble) (f r : Byte) : (s.setFlagResult x f r).st = s.st := rfl
@[simp] theorem setFlagResult_mem (x : Nibble) (f r : Byte) : (s.setFlagResult x f r).mem = s.mem := rfl
@[simp] theorem setFlagResult_wait (x : Nibble) (f r : Byte) : (s.setFlagResult x f r).wait = s.wait := rfl
@[simp] theorem setFlagResult_fault (x : Nibble) (f r : Byte) : (s.setFlagResult x f r).fault = s.fault := rfl
@[simp] theorem setFlagResult_params (x : Nibble) (f r : Byte) : (s.setFlagResult x f r).params = s.params := rfl
@[simp] theorem setFlagResult_ports (x : Nibble) (f r : Byte) : (s.setFlagResult x f r).ports = s.ports := rfl
@[simp] theorem setFlagResult_schedule (x : Nibble) (f r : Byte) : (s.setFlagResult x f r).schedule = s.schedule := rfl

/-! ### `takeOp` -/

@[simp] theorem takeOp_v : (s.takeOp).v = s.v := rfl
@[simp] theorem takeOp_i : (s.takeOp).i = s.i := rfl
@[simp] theorem takeOp_pc : (s.takeOp).pc = s.pc := rfl
@[simp] theorem takeOp_skip : (s.takeOp).skip = s.skip := rfl
@[simp] theorem takeOp_stack : (s.takeOp).stack = s.stack := rfl
@[simp] theorem takeOp_dt : (s.takeOp).dt = s.dt := rfl
@[simp] theorem takeOp_st : (s.takeOp).st = s.st := rfl
@[simp] theorem takeOp_mem : (s.takeOp).mem = s.mem := rfl
@[simp] theorem takeOp_wait : (s.takeOp).wait = s.wait := rfl
@[simp] theorem takeOp_fault : (s.takeOp).fault = s.fault := rfl
@[simp] theorem takeOp_params : (s.takeOp).params = s.params := rfl
@[simp] theorem takeOp_ports : (s.takeOp).ports = s.ports := rfl
@[simp] theorem takeOp_schedule : (s.takeOp).schedule = s.schedule.tail := rfl

/-! ### `hostReset` -/

@[simp] theorem hostReset_v : s.hostReset.v = Vector.replicate 16 0 := rfl
@[simp] theorem hostReset_i : s.hostReset.i = 0 := rfl
@[simp] theorem hostReset_pc : s.hostReset.pc = 0x200 := rfl
@[simp] theorem hostReset_skip : s.hostReset.skip = false := rfl
@[simp] theorem hostReset_stack : s.hostReset.stack = [] := rfl
@[simp] theorem hostReset_dt : s.hostReset.dt = 0 := rfl
@[simp] theorem hostReset_st : s.hostReset.st = 0 := rfl
@[simp] theorem hostReset_mem : s.hostReset.mem = [] := rfl
@[simp] theorem hostReset_wait : s.hostReset.wait = none := rfl
@[simp] theorem hostReset_fault : s.hostReset.fault = none := rfl
@[simp] theorem hostReset_params : s.hostReset.params = s.params := rfl
@[simp] theorem hostReset_ports : s.hostReset.ports = s.ports := rfl
@[simp] theorem hostReset_schedule : s.hostReset.schedule = s.schedule := rfl

/-! ### A register written and read -/

theorem getV_eq (x : Nibble) : s.getV x = s.v[x.toNat]'x.isLt := rfl

@[simp] theorem getV_setV (x y : Nibble) (b : Byte) :
    (s.setV x b).getV y = if y = x then b else s.getV y := by
  simp only [setV, getV, Vector.getElem_set, BitVec.toNat_inj, eq_comm]

@[simp] theorem getV_setI (a : Word16) (y : Nibble) : (s.setI a).getV y = s.getV y := rfl
@[simp] theorem getV_setPc (a : Word16) (y : Nibble) : (s.setPc a).getV y = s.getV y := rfl
@[simp] theorem getV_setSkip (c : Bool) (y : Nibble) : (s.setSkip c).getV y = s.getV y := rfl
@[simp] theorem getV_setDt (b : Byte) (y : Nibble) : (s.setDt b).getV y = s.getV y := rfl
@[simp] theorem getV_setSt (b : Byte) (y : Nibble) : (s.setSt b).getV y = s.getV y := rfl
@[simp] theorem getV_setWait (w : Option Nibble) (y : Nibble) : (s.setWait w).getV y = s.getV y := rfl
@[simp] theorem getV_callPort (c : PortCall) (y : Nibble) : (s.callPort c).getV y = s.getV y := rfl
@[simp] theorem getV_writeByte (a : Nat) (b : Byte) (y : Nibble) : (s.writeByte a b).getV y = s.getV y := rfl
@[simp] theorem getV_raise (k : FaultKind) (p : Word16) (a : Option Word16) (y : Nibble) : (s.raise k p a).getV y = s.getV y := rfl
@[simp] theorem getV_raiseExec (k : FaultKind) (a : Option Word16) (y : Nibble) : (s.raiseExec k a).getV y = s.getV y := rfl
@[simp] theorem getV_takeOp (y : Nibble) : (s.takeOp).getV y = s.getV y := rfl

theorem getV_setFlagResult (x y : Nibble) (f r : Byte) :
    (s.setFlagResult x f r).getV y = if y = x then r else if y = vF then f else s.getV y := by
  simp [setFlagResult]

@[simp] theorem hostReset_getV (y : Nibble) : s.hostReset.getV y = 0 := by
  simp [getV]

/-- The register file is what its sixteen reads are. -/
theorem v_ext {s t : State} (h : ∀ x, t.getV x = s.getV x) : t.v = s.v := by
  apply Vector.ext
  intro k hk
  have := h (BitVec.ofNat 4 k)
  simpa [getV, Nat.mod_eq_of_lt hk] using this

end Sys2Proof.Machine.State
end

