-- ==== Sys2Proof/Laws/Memory.lean ====
section
/-! SUPPORT. Memory: a read after a write, the canonical form, and that equal reads are equal memories. -/

namespace Sys2Proof.Machine

/-! ### Lookup -/

theorem Memory.lookup_put (m : Memory) (a : Nat) (b : Byte) (c : Nat) :
    (Memory.put a b m).lookup c = if c = a then some b else m.lookup c := by
  induction m with
  | nil => simp [Memory.put, Memory.lookup, eq_comm]
  | cons k m ih =>
    obtain ⟨k, d⟩ := k
    simp only [Memory.put]
    split
    · simp [Memory.lookup, eq_comm]
    · split <;> simp only [Memory.lookup] <;> grind

theorem Memory.lookup_drop (m : Memory) (a c : Nat) :
    (m.drop a).lookup c = if c = a then none else m.lookup c := by
  induction m with
  | nil => simp [Memory.drop, Memory.lookup]
  | cons k m ih =>
    obtain ⟨k, d⟩ := k
    simp only [Memory.drop, List.filter_cons, Memory.lookup] at *
    by_cases h : k = a
    · subst h
      simp only [ne_eq, not_true_eq_false, decide_false, Bool.false_eq_true, if_false]
      grind
    · simp only [ne_eq, h, not_false_eq_true, decide_true, if_true, Memory.lookup]
      grind

/-- A read after a write (20_memory.md R56). -/
theorem Memory.read_write (fb : Nat) (m : Memory) (a : Nat) (b : Byte) (c : Nat) :
    (m.write fb a b).read fb c = if c = a then b else m.read fb c := by
  simp only [Memory.read, Memory.write]
  split
  · rw [Memory.lookup_drop]; split <;> simp_all
  · rw [Memory.lookup_put]; split <;> simp_all

/-! ### The canonical form -/

theorem Memory.mem_put {m : Memory} {a : Nat} {b : Byte} {c : Host.Cell} (h : c ∈ Memory.put a b m) :
    c = (a, b) ∨ c ∈ m := by
  induction m with
  | nil => simpa [Memory.put] using h
  | cons k m ih =>
    obtain ⟨k, d⟩ := k
    simp only [Memory.put] at h
    split at h
    · simpa using h
    · split at h <;> simp only [List.mem_cons] at * <;> tauto

theorem Memory.pairwise_put {m : Memory} (a : Nat) (b : Byte) (h : m.Pairwise fun c d => c.1 < d.1) :
    (Memory.put a b m).Pairwise fun c d => c.1 < d.1 := by
  induction m with
  | nil => simp [Memory.put]
  | cons k m ih =>
    obtain ⟨k, d⟩ := k
    obtain ⟨hk, hm⟩ := List.pairwise_cons.mp h
    simp only [Memory.put]
    split
    · rename_i hlt
      refine List.pairwise_cons.mpr ⟨fun c hc => ?_, h⟩
      rcases List.mem_cons.mp hc with rfl | hc
      · exact hlt
      · exact Nat.lt_trans hlt (hk c hc)
    · split
      · rename_i _ heq
        exact List.pairwise_cons.mpr ⟨fun c hc => heq ▸ hk c hc, hm⟩
      · rename_i h1 h2
        refine List.pairwise_cons.mpr ⟨fun c hc => ?_, ih hm⟩
        rcases Memory.mem_put hc with rfl | hc
        · show k < a
          omega
        · exact hk c hc

/-- Every write of a byte that exists keeps the canonical form. -/
theorem Memory.wf_write {fb : Nat} {m : Memory} (h : m.wf fb) {a : Nat} (ha : a < memSize) (b : Byte) :
    (m.write fb a b).wf fb := by
  unfold Memory.write
  split
  · exact ⟨h.1.filter _, fun c hc => h.2 c (List.mem_filter.mp hc).1⟩
  · rename_i hb
    refine ⟨Memory.pairwise_put a b h.1, fun c hc => ?_⟩
    rcases Memory.mem_put hc with rfl | hc
    · exact ⟨ha, hb⟩
    · exact h.2 c hc

theorem Memory.wf_nil (fb : Nat) : Memory.wf fb [] := ⟨List.Pairwise.nil, fun c hc => by cases hc⟩

/-! ### Bytes of the state -/

namespace State

variable (s : State)

@[simp] theorem readByte_writeByte (a : Nat) (b : Byte) (c : Nat) :
    (s.writeByte a b).readByte c = if c = a then b else s.readByte c :=
  Memory.read_write s.params.fontBase.val s.mem a b c

/-- A byte depends on the memory and the font's place alone. -/
theorem readByte_congr {s t : State} (hm : t.mem = s.mem) (hp : t.params = s.params) (a : Nat) :
    t.readByte a = s.readByte a := by
  simp [readByte, hm, hp]

theorem readBytes_congr {s t : State} (hm : t.mem = s.mem) (hp : t.params = s.params) (a n : Nat) :
    t.readBytes a n = s.readBytes a n := by
  simp [readBytes, readByte, hm, hp]

theorem readWord_congr {s t : State} (hm : t.mem = s.mem) (hp : t.params = s.params) (a : Nat) :
    t.readWord a = s.readWord a := by
  simp [readWord, readByte, hm, hp]

@[simp] theorem length_readBytes (a n : Nat) : (s.readBytes a n).length = n := by simp [readBytes]

@[simp] theorem getElem?_readBytes (a n k : Nat) :
    (s.readBytes a n)[k]? = if k < n then some (s.readByte (a + k)) else none := by
  simp only [readBytes, List.getElem?_map]
  split <;> simp_all

/-- Writing bytes changes memory alone, through one-byte writes. -/
theorem writeBytes_eq (a : Nat) (bs : List Byte) :
    s.writeBytes a bs = { s with mem := (s.writeBytes a bs).mem } := by
  induction bs generalizing s a with
  | nil => rfl
  | cons b bs ih => rw [writeBytes, ih]; rfl

@[simp] theorem writeBytes_v (a : Nat) (bs : List Byte) : (s.writeBytes a bs).v = s.v := by rw [writeBytes_eq]
@[simp] theorem writeBytes_i (a : Nat) (bs : List Byte) : (s.writeBytes a bs).i = s.i := by rw [writeBytes_eq]
@[simp] theorem writeBytes_pc (a : Nat) (bs : List Byte) : (s.writeBytes a bs).pc = s.pc := by rw [writeBytes_eq]
@[simp] theorem writeBytes_skip (a : Nat) (bs : List Byte) : (s.writeBytes a bs).skip = s.skip := by rw [writeBytes_eq]
@[simp] theorem writeBytes_stack (a : Nat) (bs : List Byte) : (s.writeBytes a bs).stack = s.stack := by rw [writeBytes_eq]
@[simp] theorem writeBytes_dt (a : Nat) (bs : List Byte) : (s.writeBytes a bs).dt = s.dt := by rw [writeBytes_eq]
@[simp] theorem writeBytes_st (a : Nat) (bs : List Byte) : (s.writeBytes a bs).st = s.st := by rw [writeBytes_eq]
@[simp] theorem writeBytes_wait (a : Nat) (bs : List Byte) : (s.writeBytes a bs).wait = s.wait := by rw [writeBytes_eq]
@[simp] theorem writeBytes_fault (a : Nat) (bs : List Byte) : (s.writeBytes a bs).fault = s.fault := by rw [writeBytes_eq]
@[simp] theorem writeBytes_params (a : Nat) (bs : List Byte) : (s.writeBytes a bs).params = s.params := by rw [writeBytes_eq]
@[simp] theorem writeBytes_ports (a : Nat) (bs : List Byte) : (s.writeBytes a bs).ports = s.ports := by rw [writeBytes_eq]
@[simp] theorem writeBytes_schedule (a : Nat) (bs : List Byte) : (s.writeBytes a bs).schedule = s.schedule := by rw [writeBytes_eq]
@[simp] theorem getV_writeBytes (a : Nat) (bs : List Byte) (x : Nibble) : (s.writeBytes a bs).getV x = s.getV x := by
  simp [getV]

theorem readByte_writeBytes (a : Nat) (bs : List Byte) (c : Nat) :
    (s.writeBytes a bs).readByte c = if a ≤ c then bs.getD (c - a) (s.readByte c) else s.readByte c := by
  induction bs generalizing s a with
  | nil => simp [writeBytes]
  | cons b bs ih =>
    rw [writeBytes, ih]
    rcases Nat.lt_trichotomy c a with h | h | h
    · simp [show ¬ a ≤ c by omega, show ¬ a + 1 ≤ c by omega, show c ≠ a by omega]
    · subst h; simp
    · obtain ⟨d, rfl⟩ : ∃ d, c = a + 1 + d := ⟨c - (a + 1), by omega⟩
      simp [show a + 1 + d - a = d + 1 by omega, show a ≤ a + 1 + d by omega, show a + 1 + d ≠ a by omega]

/-- Bytes that all exist keep the canonical form. -/
theorem wf_writeBytes {s : State} (h : s.mem.wf s.params.fontBase.val) {a : Nat} {bs : List Byte}
    (hb : a + bs.length ≤ memSize) : (s.writeBytes a bs).mem.wf s.params.fontBase.val := by
  induction bs generalizing s a with
  | nil => exact h
  | cons b bs ih =>
    simp only [List.length_cons] at hb
    exact ih (s := s.writeByte a b) (Memory.wf_write h (by omega) b) (by omega)

end State

/-! ### The canonical form is canonical -/

theorem Memory.lookup_none {m : Memory} {a : Nat} (h : ∀ c ∈ m, a < c.1) : m.lookup a = none := by
  induction m with
  | nil => rfl
  | cons k m ih =>
    have hk := h k (by simp)
    simp only [Memory.lookup, if_neg (show ¬ k.1 = a by omega)]
    exact ih fun c hc => h c (by simp [hc])

/-- A listed byte is what its address reads as. -/
theorem Memory.lookup_of_mem {m : Memory} (h : m.Pairwise fun c d => c.1 < d.1) {c : Host.Cell} (hc : c ∈ m) :
    m.lookup c.1 = some c.2 := by
  induction m with
  | nil => simp at hc
  | cons k m ih =>
    obtain ⟨hk, hm⟩ := List.pairwise_cons.mp h
    rcases List.mem_cons.mp hc with rfl | hc
    · simp [Memory.lookup]
    · have := hk c hc
      simp only [Memory.lookup, if_neg (show ¬ k.1 = c.1 by omega)]
      exact ih hm hc

theorem Memory.mem_of_lookup {m : Memory} {a : Nat} {b : Byte} (h : m.lookup a = some b) : (a, b) ∈ m := by
  induction m with
  | nil => simp [Memory.lookup] at h
  | cons k m ih =>
    simp only [Memory.lookup] at h
    split at h
    · next hk => subst hk; cases h; exact List.mem_cons_self
    · exact List.mem_cons_of_mem _ (ih h)

/-- An address of a canonical memory is listed exactly when it does not read as an unlisted one does. -/
theorem Memory.mem_iff_read {fb : Nat} {m : Memory} (h : m.wf fb) (a : Nat) (b : Byte) :
    (a, b) ∈ m ↔ m.read fb a = b ∧ b ≠ Memory.unlisted fb a := by
  constructor
  · intro hm
    refine ⟨?_, (h.2 _ hm).2⟩
    simp [Memory.read, Memory.lookup_of_mem h.1 hm]
  · rintro ⟨hr, hb⟩
    simp only [Memory.read] at hr
    cases hl : m.lookup a with
    | none => simp [hl] at hr; exact absurd hr.symm hb
    | some d => simp only [hl, Option.getD_some] at hr; exact hr ▸ Memory.mem_of_lookup hl

end Sys2Proof.Machine
end

