-- ==== Sys2Proof/Laws/Ops.lean ====
section
/-! SUPPORT. One lemma for each shared operation that says all it can do. -/

namespace Sys2Proof.Machine

/-! ### The range check -/

/-- The check passes exactly when there is no byte or the last one is in range (20_memory.md R53). -/
theorem outOfRange_eq_none {a : Word16} {n : Nat} : outOfRange a n = none ↔ n = 0 ∨ a.toNat + n ≤ memSize := by
  unfold outOfRange; split <;> simp_all

/-- What the check reports is `max(a, 0x1000)` (60_exceptions.md R126). -/
theorem outOfRange_eq_some {a bad : Word16} {n : Nat} (h : outOfRange a n = some bad) :
    n ≠ 0 ∧ memSize < a.toNat + n ∧ bad.toNat = max a.toNat memSize := by
  unfold outOfRange at h
  split at h
  · cases h
  · rename_i hn
    push Not at hn
    refine ⟨hn.1, hn.2, ?_⟩
    cases h
    split
    · next hlt => rw [Nat.max_eq_right (Nat.le_of_lt hlt)]; rfl
    · next hge => rw [Nat.max_eq_left (Nat.not_lt.mp hge)]

theorem outOfRange_some_of {a : Word16} {n : Nat} (hn : n ≠ 0) (h : memSize < a.toNat + n) :
    outOfRange a n = some (BitVec.ofNat 16 (max a.toNat memSize)) := by
  have : outOfRange a n ≠ none := by rw [Ne, outOfRange_eq_none]; omega
  obtain ⟨bad, hb⟩ := Option.ne_none_iff_exists'.mp this
  rw [hb, ← (outOfRange_eq_some hb).2.2]
  simp

namespace State

variable (s : State)

/-! ### Registers -/

theorem setRegs_eq (k : Nat) (bs : List Byte) : s.setRegs k bs = { s with v := (s.setRegs k bs).v } := by
  induction bs generalizing s k with
  | nil => rfl
  | cons b bs ih => rw [setRegs, ih]; rfl

@[simp] theorem setRegs_i (k : Nat) (bs : List Byte) : (s.setRegs k bs).i = s.i := by rw [setRegs_eq]
@[simp] theorem setRegs_pc (k : Nat) (bs : List Byte) : (s.setRegs k bs).pc = s.pc := by rw [setRegs_eq]
@[simp] theorem setRegs_skip (k : Nat) (bs : List Byte) : (s.setRegs k bs).skip = s.skip := by rw [setRegs_eq]
@[simp] theorem setRegs_stack (k : Nat) (bs : List Byte) : (s.setRegs k bs).stack = s.stack := by rw [setRegs_eq]
@[simp] theorem setRegs_dt (k : Nat) (bs : List Byte) : (s.setRegs k bs).dt = s.dt := by rw [setRegs_eq]
@[simp] theorem setRegs_st (k : Nat) (bs : List Byte) : (s.setRegs k bs).st = s.st := by rw [setRegs_eq]
@[simp] theorem setRegs_mem (k : Nat) (bs : List Byte) : (s.setRegs k bs).mem = s.mem := by rw [setRegs_eq]
@[simp] theorem setRegs_wait (k : Nat) (bs : List Byte) : (s.setRegs k bs).wait = s.wait := by rw [setRegs_eq]
@[simp] theorem setRegs_fault (k : Nat) (bs : List Byte) : (s.setRegs k bs).fault = s.fault := by rw [setRegs_eq]
@[simp] theorem setRegs_params (k : Nat) (bs : List Byte) : (s.setRegs k bs).params = s.params := by rw [setRegs_eq]
@[simp] theorem setRegs_ports (k : Nat) (bs : List Byte) : (s.setRegs k bs).ports = s.ports := by rw [setRegs_eq]
@[simp] theorem setRegs_schedule (k : Nat) (bs : List Byte) : (s.setRegs k bs).schedule = s.schedule := by rw [setRegs_eq]

/-- A register after a run of register writes that stays inside the file. -/
theorem getV_setRegs (k : Nat) (bs : List Byte) (h : k + bs.length ≤ 16) (y : Nibble) :
    (s.setRegs k bs).getV y = if k ≤ y.toNat then bs.getD (y.toNat - k) (s.getV y) else s.getV y := by
  induction bs generalizing s k with
  | nil => simp [setRegs]
  | cons b bs ih =>
    simp only [List.length_cons] at h
    rw [setRegs, ih _ _ (by omega), getV_setV]
    have hk : (y = BitVec.ofNat 4 k) ↔ y.toNat = k := by
      rw [← BitVec.toNat_inj]
      simp [Nat.mod_eq_of_lt (show k < 16 by omega)]
    simp only [hk]
    rcases Nat.lt_trichotomy y.toNat k with h1 | h1 | h1
    · simp [show ¬ k ≤ y.toNat by omega, show ¬ k + 1 ≤ y.toNat by omega, show y.toNat ≠ k by omega]
    · simp [h1]
    · obtain ⟨d, hd⟩ : ∃ d, y.toNat = k + 1 + d := ⟨y.toNat - (k + 1), by omega⟩
      simp [hd, show k + 1 + d - k = d + 1 by omega, show k ≤ k + 1 + d by omega, show k + 1 + d ≠ k by omega]

@[simp] theorem length_getRegs (n : Nat) : (s.getRegs n).length = n := by simp [getRegs]

@[simp] theorem getElem?_getRegs (n k : Nat) :
    (s.getRegs n)[k]? = if k < n then some (s.getV (BitVec.ofNat 4 k)) else none := by
  simp only [getRegs, List.getElem?_map]
  split <;> simp_all

/-! ### Operations with more than one outcome -/

/-- All that an access at `I` can do: its effect, or the fault with no effect (20_memory.md R53). -/
theorem accessAtI_cases (n : Nat) (e : State) :
    (outOfRange s.i n = none ∧ s.accessAtI n e = e) ∨
    (∃ bad, outOfRange s.i n = some bad ∧ s.accessAtI n e = s.raiseExec .memoryOutOfRange (some bad)) := by
  unfold accessAtI
  cases h : outOfRange s.i n <;> simp

theorem accessAtI_inRange {n : Nat} (e : State) (h : n = 0 ∨ s.i.toNat + n ≤ memSize) : s.accessAtI n e = e := by
  simp [accessAtI, outOfRange_eq_none.mpr h]

/-- All that a call can do (10_state.md R38). -/
theorem pushJump_cases (v a : Word16) :
    (s.stack.length < s.params.stackDepth.entries ∧ s.pushJump v a = { s with stack := v :: s.stack, pc := a }) ∨
    (s.params.stackDepth.entries ≤ s.stack.length ∧ s.pushJump v a = s.raiseExec .stackOverflow none) := by
  unfold pushJump
  split
  · exact .inl ⟨‹_›, rfl⟩
  · exact .inr ⟨by omega, rfl⟩

/-- All that a return can do (10_state.md R39). -/
theorem popJump_cases :
    (∃ a rest, s.stack = a :: rest ∧ s.popJump = { s with stack := rest, pc := a }) ∨
    (s.stack = [] ∧ s.popJump = s.raiseExec .stackUnderflow none) := by
  unfold popJump
  cases h : s.stack with
  | nil => exact .inr ⟨rfl, rfl⟩
  | cons a rest => exact .inl ⟨a, rest, rfl, rfl⟩

/-! ### Flags -/

end State

theorem flag_true : flag true = 1 := rfl

theorem flag_false : flag false = 0 := rfl

theorem carryFlag_eq (a b : Byte) : carryFlag a b = if a.toNat + b.toNat > 255 then 1 else 0 := by
  simp [carryFlag, flag]

theorem borrowFlag_eq (a b : Byte) : borrowFlag a b = if a.toNat < b.toNat then 1 else 0 := by
  simp [borrowFlag, flag]

theorem toNat_lowBitFlag (a : Byte) : (lowBitFlag a).toNat = a.toNat % 2 := by
  simp [lowBitFlag, Nat.and_one_is_mod]

theorem toNat_highBitFlag (a : Byte) : (highBitFlag a).toNat = a.toNat / 128 := by
  have h := a.isLt
  simp only [highBitFlag, flag, BitVec.getLsbD, Nat.testBit_eq_decide_div_mod_eq]
  rcases Nat.lt_or_ge a.toNat 128 with h1 | h1
  · simp [Nat.div_eq_of_lt h1]
  · rw [show a.toNat / 2 ^ 7 = 1 by omega, show a.toNat / 128 = 1 by omega]; rfl

/-! ### Address computations -/

theorem toNat_zext16 (a : Addr12) : (zext16 a).toNat = a.toNat := by
  have := a.isLt
  simp [zext16]
  omega

theorem toNat_byte16 (b : Byte) : (byte16 b).toNat = b.toNat := by
  have := b.isLt
  simp [byte16]
  omega

theorem toNat_keyByte (k : Nibble) : (keyByte k).toNat = k.toNat := by
  have := k.isLt
  simp [keyByte]
  omega

/-- The sum of FX1E on unbounded integers, modulo 4096 (43_index_memory.md R112). -/
theorem toNat_indexSum (i : Word16) (b : Byte) : (indexSum i b).toNat = (i.toNat + b.toNat) % 4096 := by
  have hm : ∀ n : Nat, n &&& 4095 = n % 4096 := fun n => Nat.and_two_pow_sub_one_eq_mod n 12
  simp only [indexSum, BitVec.toNat_and, BitVec.toNat_add, toNat_byte16]
  rw [show BitVec.toNat (0xFFF : Word16) = 4095 from rfl, hm]
  omega

/-- The address of FX29 on unbounded integers: it never wraps (43_index_memory.md R113). -/
theorem toNat_glyphAddr (fb : Fin 0x1B1) (b : Byte) :
    (glyphAddr fb.val b).toNat = fb.val + 5 * (b.toNat % 16) := by
  have hm : (b &&& 0xF).toNat = b.toNat % 16 := by
    rw [BitVec.toNat_and]
    exact Nat.and_two_pow_sub_one_eq_mod b.toNat 4
  have := fb.isLt
  simp only [glyphAddr, BitVec.toNat_ofNat, hm]
  omega

/-- The digits of FX33: each is a decimal digit, and together they are the value (43_index_memory.md R114). -/
theorem bcdDigits_spec (b : Byte) :
    ∃ h t u : Byte, bcdDigits b = [h, t, u] ∧ h.toNat = b.toNat / 100 ∧ t.toNat = b.toNat / 10 % 10 ∧
      u.toNat = b.toNat % 10 := by
  have := b.isLt
  refine ⟨_, _, _, rfl, ?_, ?_, ?_⟩ <;> simp only [BitVec.toNat_ofNat] <;> omega

end Sys2Proof.Machine
end

