-- ==== Sys2Proof/Laws/Cycle.lean ====
section
/-! SUPPORT. What a tick and a step can do, said once, and that `withFetchWord` places the instruction the next step runs. -/

namespace Sys2Proof.Machine

/-! ### Execute -/

/-- No instruction stops the machine: an execute step always has a next state (40_cycle.md R83). -/
theorem exec_next (i : Instr) (s : State) : ∃ t, exec i s = .next t := by
  cases i <;> exact ⟨_, rfl⟩

/-! ### Tick -/

theorem State.gated_eq_false {s : State} : s.gated = false ↔ s.fault = none ∧ s.wait = none := by
  simp [State.gated]

theorem State.gated_eq_true {s : State} : s.gated = true ↔ s.fault ≠ none ∨ s.wait ≠ none := by
  simp [State.gated, Option.isSome_iff_ne_none]

/-- A tick while a latch is set (R75). -/
theorem tick_gated {s : State} (h : s.gated = true) : tick s = .next s := by
  simp [tick, h]

/-- A tick whose fetch faults (R77). -/
theorem tick_fetchFault {s : State} {bad : Word16} (hg : s.gated = false)
    (h : outOfRange s.consumeSkip.pc 2 = some bad) :
    tick s = .next (s.consumeSkip.raise .memoryOutOfRange s.consumeSkip.pc (some bad)) := by
  simp [tick, hg, State.fetchExecute, h]

/-- A tick that executes (R79). -/
theorem tick_execute {s : State} (hg : s.gated = false) (h : outOfRange s.consumeSkip.pc 2 = none) :
    tick s = exec (decode (s.consumeSkip.readWord s.consumeSkip.pc.toNat))
      (s.consumeSkip.setPc (s.consumeSkip.pc + 2)) := by
  simp [tick, hg, State.fetchExecute, h]

/-- All that a tick can do: nothing, a fetch fault, or one execute step. -/
theorem tick_cases (s : State) :
    (s.gated = true ∧ tick s = .next s) ∨
    (s.gated = false ∧ ∃ bad, outOfRange s.consumeSkip.pc 2 = some bad ∧
      tick s = .next (s.consumeSkip.raise .memoryOutOfRange s.consumeSkip.pc (some bad))) ∨
    (s.gated = false ∧ outOfRange s.consumeSkip.pc 2 = none ∧
      tick s = exec (decode (s.consumeSkip.readWord s.consumeSkip.pc.toNat))
        (s.consumeSkip.setPc (s.consumeSkip.pc + 2))) := by
  cases hg : s.gated with
  | true => exact .inl ⟨rfl, tick_gated hg⟩
  | false =>
    cases h : outOfRange s.consumeSkip.pc 2 with
    | none => exact .inr (.inr ⟨rfl, rfl, tick_execute hg h⟩)
    | some bad => exact .inr (.inl ⟨rfl, bad, rfl, tick_fetchFault hg h⟩)

/-! ### Step -/

theorem step_eq (s : State) : step s = s.nextOp.perform s.takeOp := rfl

/-- Taking the operation off the schedule leaves the engine alone. -/
theorem State.takeOp_of_nil {s : State} (h : s.schedule = []) : s.takeOp = s := by
  obtain ⟨⟩ := s
  simp_all [State.takeOp]

/-- All that a step can do: one operation of the host (60_exceptions.md R139, R144). -/
theorem step_cases (s : State) :
    (s.nextOp = .tick ∧ step s = tick s.takeOp) ∨
    (s.nextOp = .timerTick ∧ step s = .next (timerTick s.takeOp)) ∨
    (∃ k, s.nextOp = .keyEvent k ∧ step s = .next (keyEvent k s.takeOp)) ∨
    (s.nextOp = .reset ∧ step s = .next s.takeOp.hostReset) ∨
    (∃ bs, s.nextOp = .loadRom bs ∧ step s = .next (loadRom bs s.takeOp)) := by
  rw [step_eq]
  cases h : s.nextOp <;> simp [HostOp.perform]

/-- Every step has a next state. -/
theorem step_next (s : State) : ∃ t, step s = .next t := by
  rcases step_cases s with ⟨-, h⟩ | ⟨-, h⟩ | ⟨_, -, h⟩ | ⟨-, h⟩ | ⟨_, -, h⟩
  · rcases tick_cases s.takeOp with ⟨-, h'⟩ | ⟨-, _, -, h'⟩ | ⟨-, -, h'⟩
    · exact ⟨_, h.trans h'⟩
    · exact ⟨_, h.trans h'⟩
    · rw [h, h']; exact exec_next _ _
  all_goals exact ⟨_, h⟩

/-! ### A pending skip -/

theorem State.consumeSkip_of_false {s : State} (h : s.skip = false) : s.consumeSkip = s := by
  simp [State.consumeSkip, h]

theorem State.consumeSkip_of_true {s : State} (h : s.skip = true) :
    s.consumeSkip = { s with pc := s.pc + 2, skip := false } := by
  simp [State.consumeSkip, h]

theorem State.consumeSkip_eq (s : State) :
    s.consumeSkip = { s with pc := if s.skip then s.pc + 2 else s.pc, skip := false } := by
  obtain ⟨⟩ := s
  simp only [State.consumeSkip]
  split <;> simp_all

/-! ### The other operations -/

/-- All that a key event can do (60_exceptions.md R133). -/
theorem keyEvent_cases (k : Nibble) (s : State) :
    (∃ x, s.fault = none ∧ s.wait = some x ∧ keyEvent k s = (s.setV x (keyByte k)).setWait none) ∨
    ((s.fault ≠ none ∨ s.wait = none) ∧ keyEvent k s = s) := by
  unfold keyEvent
  cases hf : s.fault <;> cases hw : s.wait <;> simp

/-- All that a ROM load can do (70_reset_and_hazards.md R149). -/
theorem loadRom_cases (bs : List Byte) (s : State) :
    (bs.length ≤ memSize - romStart ∧ loadAnswer bs = .loaded ∧ loadRom bs s = s.hostReset.writeBytes romStart bs) ∨
    (memSize - romStart < bs.length ∧ loadAnswer bs = .romTooLarge ∧ loadRom bs s = s) := by
  unfold loadRom loadAnswer
  split <;> simp_all

theorem toNat_timer (b : Byte) : (if 0 < b.toNat then b - 1 else b).toNat = b.toNat - 1 := by
  have := b.isLt
  split
  · rw [BitVec.toNat_sub, show BitVec.toNat (1 : Byte) = 1 from rfl]
    omega
  · omega

/-! ### Placing a word -/

theorem readWord_placed (s : State) (a : Nat) (w : Word16) :
    (s.writeBytes a [w.extractLsb' 8 8, w.extractLsb' 0 8]).readWord a = w := by
  simp only [State.readWord, State.readByte_writeBytes]
  have : a + 1 - a = 1 := by omega
  simp only [Nat.le_refl, if_true, Nat.sub_self, List.getD_cons_zero, Nat.le_add_right, this, List.getD_cons_succ]
  apply BitVec.eq_of_getLsbD_eq
  intro k hk
  simp only [BitVec.getLsbD_append, BitVec.getLsbD_extractLsb']
  grind

theorem tableWord_toNat (w : Word16) : tableWord 16 w.toNat = w := by
  simp [tableWord, Nat.mod_eq_of_lt w.isLt]

theorem nextOp_readyToFetch (s : State) : s.readyToFetch.nextOp = .tick := by
  unfold State.nextOp State.readyToFetch
  split <;> simp_all

/-- Where the word goes there is room for its two bytes. -/
theorem fetchable_inRange (s : State) : outOfRange s.fetchable.fetchAddr 2 = none := by
  unfold State.fetchable
  split
  · rfl
  · assumption

/-- The step after `withFetchWord` runs the placed word's instruction, whatever the state. -/
theorem step_withFetchWord (s : State) (w : Word16) :
    let u := (s.withFetchWord 16 w.toNat).takeOp.consumeSkip
    step (s.withFetchWord 16 w.toNat) = exec (decode w) (u.setPc (u.pc + 2)) := by
  intro u
  set r := s.readyToFetch.fetchable with hr
  have hp : s.withFetchWord 16 w.toNat = r.placeWord w := by rw [State.withFetchWord, tableWord_toNat]
  have hbase : r.nextOp = .tick ∧ r.gated = false := by
    rw [hr, State.fetchable]
    split <;> exact ⟨nextOp_readyToFetch s, rfl⟩
  have hop : (r.placeWord w).nextOp = .tick := by
    rw [← hbase.1]; simp [State.nextOp, State.placeWord]
  have hg : (r.placeWord w).takeOp.gated = false := by
    rw [← hbase.2]; simp [State.gated, State.placeWord]
  have hu : u = { (r.placeWord w).takeOp with pc := r.fetchAddr, skip := false } := by
    simp only [u, hp, State.consumeSkip_eq, State.fetchAddr]
    simp [State.placeWord]
  have hpc : u.pc = r.fetchAddr := by rw [hu]
  have hw : u.readWord u.pc.toNat = w := by
    rw [hpc, State.readWord_congr (s := r.placeWord w) (by rw [hu]; rfl) (by rw [hu]; rfl)]
    exact readWord_placed r _ w
  rw [hp, step_eq, hop]
  show tick (r.placeWord w).takeOp = _
  have : (r.placeWord w).takeOp.consumeSkip = u := by simp only [u, hp]
  rw [tick_execute hg (by rw [this, hpc]; exact fetchable_inRange _), this, hw]

end Sys2Proof.Machine
end

