-- ==== Sys2Proof/Laws/Exec.lean ====
section
/-! SUPPORT. The next state of each instruction, in the shared operations. -/

namespace Sys2Proof.Machine

variable (s : State)

theorem exec_clearScreen : exec (.clearScreen) s =
    .next (s.callPort .clear) := rfl

theorem exec_ret : exec (.ret) s =
    .next s.popJump := rfl

theorem exec_jump (nnn : Addr12) : exec (.jump nnn) s =
    .next (s.setPc (zext16 nnn)) := rfl

theorem exec_call (nnn : Addr12) : exec (.call nnn) s =
    .next (s.pushJump s.pc (zext16 nnn)) := rfl

theorem exec_skipEqConst (x : Nibble) (nn : Byte) : exec (.skipEqConst x nn) s =
    .next (s.setSkip (s.getV x == nn)) := rfl

theorem exec_skipNeqConst (x : Nibble) (nn : Byte) : exec (.skipNeqConst x nn) s =
    .next (s.setSkip (s.getV x != nn)) := rfl

theorem exec_skipEqReg (x y : Nibble) : exec (.skipEqReg x y) s =
    .next (s.setSkip (s.getV x == s.getV y)) := rfl

theorem exec_skipNeqReg (x y : Nibble) : exec (.skipNeqReg x y) s =
    .next (s.setSkip (s.getV x != s.getV y)) := rfl

theorem exec_unhandled (w : Word16) : exec (.unhandled w) s =
    .next s := rfl

theorem exec_loadConst (x : Nibble) (nn : Byte) : exec (.loadConst x nn) s =
    .next (s.setV x nn) := rfl

theorem exec_addConst (x : Nibble) (nn : Byte) : exec (.addConst x nn) s =
    .next (s.setV x (s.getV x + nn)) := rfl

theorem exec_copy (x y : Nibble) : exec (.copy x y) s =
    .next (s.setV x (s.getV y)) := rfl

theorem exec_orReg (x y : Nibble) : exec (.orReg x y) s =
    .next (s.setV x (s.getV x ||| s.getV y)) := rfl

theorem exec_andReg (x y : Nibble) : exec (.andReg x y) s =
    .next (s.setV x (s.getV x &&& s.getV y)) := rfl

theorem exec_xorReg (x y : Nibble) : exec (.xorReg x y) s =
    .next (s.setV x (s.getV x ^^^ s.getV y)) := rfl

theorem exec_addReg (x y : Nibble) : exec (.addReg x y) s =
    .next (s.setFlagResult x (carryFlag (s.getV x) (s.getV y)) ((s.getV x) + (s.getV y))) := rfl

theorem exec_subReg (x y : Nibble) : exec (.subReg x y) s =
    .next (s.setFlagResult x (borrowFlag (s.getV x) (s.getV y)) ((s.getV x) - (s.getV y))) := rfl

theorem exec_subRegReverse (x y : Nibble) : exec (.subRegReverse x y) s =
    .next (s.setFlagResult x (borrowFlag (s.getV y) (s.getV x)) ((s.getV y) - (s.getV x))) := rfl

theorem exec_shiftRight (x y : Nibble) : exec (.shiftRight x y) s =
    .next (s.setFlagResult x (lowBitFlag (shiftOperand s.params.shiftSource (s.getV x) (s.getV y))) ((shiftOperand s.params.shiftSource (s.getV x) (s.getV y)) >>> 1)) := rfl

theorem exec_shiftLeft (x y : Nibble) : exec (.shiftLeft x y) s =
    .next (s.setFlagResult x (highBitFlag (shiftOperand s.params.shiftSource (s.getV x) (s.getV y))) ((shiftOperand s.params.shiftSource (s.getV x) (s.getV y)) <<< 1)) := rfl

theorem exec_randomAnd (x : Nibble) (nn : Byte) : exec (.randomAnd x nn) s =
    .next ((s.callPort .rand).setV x (s.randAnswer &&& nn)) := rfl

theorem exec_loadIndex (nnn : Addr12) : exec (.loadIndex nnn) s =
    .next (s.setI (zext16 nnn)) := rfl

theorem exec_jumpOffset (nnn : Addr12) : exec (.jumpOffset nnn) s =
    .next (s.setI (zext16 nnn + byte16 (s.getV 0))) := rfl

theorem exec_addToIndex (x : Nibble) : exec (.addToIndex x) s =
    .next (s.setI (indexSum s.i (s.getV x))) := rfl

theorem exec_loadFontSprite (x : Nibble) : exec (.loadFontSprite x) s =
    .next (s.setI (glyphAddr s.params.fontBase.val (s.getV x))) := rfl

theorem exec_storeBcd (x : Nibble) : exec (.storeBcd x) s =
    .next (s.accessAtI 3 (s.writeBytes s.i.toNat (bcdDigits (s.getV x)))) := rfl

theorem exec_storeRegisters (x : Nibble) : exec (.storeRegisters x) s =
    .next (s.accessAtI (x.toNat + 1) (s.writeBytes s.i.toNat (s.getRegs (x.toNat + 1)))) := rfl

theorem exec_loadRegisters (x : Nibble) : exec (.loadRegisters x) s =
    .next (s.accessAtI (x.toNat + 1) (s.setRegs 0 (s.readBytes s.i.toNat (x.toNat + 1)))) := rfl

theorem exec_draw (x y n : Nibble) : exec (.draw x y n) s =
    .next (s.accessAtI n.toNat ((s.callPort (.draw (s.getV x) (s.getV y) n (s.readBytes s.i.toNat n.toNat))).setV vF (flag (s.drawAnswer (s.getV x) (s.getV y) (s.readBytes s.i.toNat n.toNat))))) := rfl

theorem exec_skipKeyPressed (x : Nibble) : exec (.skipKeyPressed x) s =
    .next ((s.callPort (.keyPressed (s.getV x))).setSkip (s.keyAnswer (s.getV x))) := rfl

theorem exec_skipKeyNotPressed (x : Nibble) : exec (.skipKeyNotPressed x) s =
    .next ((s.callPort (.keyPressed (s.getV x))).setSkip (!s.keyAnswer (s.getV x))) := rfl

theorem exec_blockOnKey (x : Nibble) : exec (.blockOnKey x) s =
    .next (s.setWait (some x)) := rfl

theorem exec_readDelayTimer (x : Nibble) : exec (.readDelayTimer x) s =
    .next (s.setV x s.dt) := rfl

theorem exec_setDelayTimer (x : Nibble) : exec (.setDelayTimer x) s =
    .next (s.setDt (s.getV x)) := rfl

theorem exec_setSoundTimer (x : Nibble) : exec (.setSoundTimer x) s =
    .next (s.setSt (s.getV x)) := rfl

end Sys2Proof.Machine
end

