-- ==== Sys2Proof/Laws/PerInstr.lean ====
section
/-! SUPPORT. Statements about each instruction as syntax, one lemma per constructor. -/

namespace Sys2Proof.Laws.RoundTrip

/-- The decoder reads an instruction's word as that instruction. -/
def Statement (i : Instr) : Prop := i.wellFormed = true → decode (encode i) = i

theorem clearScreen : Statement (.clearScreen) := fun _ => by
  decide

theorem ret : Statement (.ret) := fun _ => by
  decide

theorem jump (nnn : Addr12) : Statement (.jump nnn) := fun _ => by
  rw [encode, decode_jump (by rw [and_F000, topNibble_formNNN]; rfl), fieldNNN_formNNN]

theorem call (nnn : Addr12) : Statement (.call nnn) := fun _ => by
  rw [encode, decode_call (by rw [and_F000, topNibble_formNNN]; rfl), fieldNNN_formNNN]

theorem skipEqConst (x : Nibble) (nn : Byte) : Statement (.skipEqConst x nn) := fun _ => by
  rw [encode, decode_skipEqConst (by rw [and_F000, topNibble_formXNN]; rfl), fieldX_formXNN, fieldNN_formXNN]

theorem skipNeqConst (x : Nibble) (nn : Byte) : Statement (.skipNeqConst x nn) := fun _ => by
  rw [encode, decode_skipNeqConst (by rw [and_F000, topNibble_formXNN]; rfl), fieldX_formXNN, fieldNN_formXNN]

theorem skipEqReg (x y : Nibble) : Statement (.skipEqReg x y) := fun _ => by
  rw [encode, decode_skipEqReg (by rw [and_F000]; simp; rfl)]
  simp

theorem loadConst (x : Nibble) (nn : Byte) : Statement (.loadConst x nn) := fun _ => by
  rw [encode, decode_loadConst (by rw [and_F000, topNibble_formXNN]; rfl), fieldX_formXNN, fieldNN_formXNN]

theorem addConst (x : Nibble) (nn : Byte) : Statement (.addConst x nn) := fun _ => by
  rw [encode, decode_addConst (by rw [and_F000, topNibble_formXNN]; rfl), fieldX_formXNN, fieldNN_formXNN]

theorem copy (x y : Nibble) : Statement (.copy x y) := fun _ => by
  rw [encode, decode_copy (by rw [and_F00F]; simp; rfl)]
  simp

theorem orReg (x y : Nibble) : Statement (.orReg x y) := fun _ => by
  rw [encode, decode_orReg (by rw [and_F00F]; simp; rfl)]
  simp

theorem andReg (x y : Nibble) : Statement (.andReg x y) := fun _ => by
  rw [encode, decode_andReg (by rw [and_F00F]; simp; rfl)]
  simp

theorem xorReg (x y : Nibble) : Statement (.xorReg x y) := fun _ => by
  rw [encode, decode_xorReg (by rw [and_F00F]; simp; rfl)]
  simp

theorem addReg (x y : Nibble) : Statement (.addReg x y) := fun _ => by
  rw [encode, decode_addReg (by rw [and_F00F]; simp; rfl)]
  simp

theorem subReg (x y : Nibble) : Statement (.subReg x y) := fun _ => by
  rw [encode, decode_subReg (by rw [and_F00F]; simp; rfl)]
  simp

theorem shiftRight (x y : Nibble) : Statement (.shiftRight x y) := fun _ => by
  rw [encode, decode_shiftRight (by rw [and_F00F]; simp; rfl)]
  simp

theorem subRegReverse (x y : Nibble) : Statement (.subRegReverse x y) := fun _ => by
  rw [encode, decode_subRegReverse (by rw [and_F00F]; simp; rfl)]
  simp

theorem shiftLeft (x y : Nibble) : Statement (.shiftLeft x y) := fun _ => by
  rw [encode, decode_shiftLeft (by rw [and_F00F]; simp; rfl)]
  simp

theorem skipNeqReg (x y : Nibble) : Statement (.skipNeqReg x y) := fun _ => by
  rw [encode, decode_skipNeqReg (by rw [and_F000]; simp; rfl)]
  simp

theorem loadIndex (nnn : Addr12) : Statement (.loadIndex nnn) := fun _ => by
  rw [encode, decode_loadIndex (by rw [and_F000, topNibble_formNNN]; rfl), fieldNNN_formNNN]

theorem jumpOffset (nnn : Addr12) : Statement (.jumpOffset nnn) := fun _ => by
  rw [encode, decode_jumpOffset (by rw [and_F000, topNibble_formNNN]; rfl), fieldNNN_formNNN]

theorem randomAnd (x : Nibble) (nn : Byte) : Statement (.randomAnd x nn) := fun _ => by
  rw [encode, decode_randomAnd (by rw [and_F000, topNibble_formXNN]; rfl), fieldX_formXNN, fieldNN_formXNN]

theorem draw (x y n : Nibble) : Statement (.draw x y n) := fun _ => by
  rw [encode, decode_draw (by rw [and_F000]; simp; rfl)]
  simp

theorem skipKeyPressed (x : Nibble) : Statement (.skipKeyPressed x) := fun _ => by
  rw [encode, decode_skipKeyPressed (by rw [and_F0FF_formXNN]; rfl), fieldX_formXNN]

theorem skipKeyNotPressed (x : Nibble) : Statement (.skipKeyNotPressed x) := fun _ => by
  rw [encode, decode_skipKeyNotPressed (by rw [and_F0FF_formXNN]; rfl), fieldX_formXNN]

theorem readDelayTimer (x : Nibble) : Statement (.readDelayTimer x) := fun _ => by
  rw [encode, decode_readDelayTimer (by rw [and_F0FF_formXNN]; rfl), fieldX_formXNN]

theorem blockOnKey (x : Nibble) : Statement (.blockOnKey x) := fun _ => by
  rw [encode, decode_blockOnKey (by rw [and_F0FF_formXNN]; rfl), fieldX_formXNN]

theorem setDelayTimer (x : Nibble) : Statement (.setDelayTimer x) := fun _ => by
  rw [encode, decode_setDelayTimer (by rw [and_F0FF_formXNN]; rfl), fieldX_formXNN]

theorem setSoundTimer (x : Nibble) : Statement (.setSoundTimer x) := fun _ => by
  rw [encode, decode_setSoundTimer (by rw [and_F0FF_formXNN]; rfl), fieldX_formXNN]

theorem addToIndex (x : Nibble) : Statement (.addToIndex x) := fun _ => by
  rw [encode, decode_addToIndex (by rw [and_F0FF_formXNN]; rfl), fieldX_formXNN]

theorem loadFontSprite (x : Nibble) : Statement (.loadFontSprite x) := fun _ => by
  rw [encode, decode_loadFontSprite (by rw [and_F0FF_formXNN]; rfl), fieldX_formXNN]

theorem storeBcd (x : Nibble) : Statement (.storeBcd x) := fun _ => by
  rw [encode, decode_storeBcd (by rw [and_F0FF_formXNN]; rfl), fieldX_formXNN]

theorem storeRegisters (x : Nibble) : Statement (.storeRegisters x) := fun _ => by
  rw [encode, decode_storeRegisters (by rw [and_F0FF_formXNN]; rfl), fieldX_formXNN]

theorem loadRegisters (x : Nibble) : Statement (.loadRegisters x) := fun _ => by
  rw [encode, decode_loadRegisters (by rw [and_F0FF_formXNN]; rfl), fieldX_formXNN]

theorem unhandled (w : Word16) : Statement (.unhandled w) := fun h => by
  simp only [Instr.wellFormed, Bool.not_eq_true'] at h
  exact decode_unhandled h

end Sys2Proof.Laws.RoundTrip
end

