-- ==== Sys2Proof/Tests/Slice0.lean ====
section
/-! SUPPORT. Tests: the expected results are the worked examples and vectors of 95_test_vectors.md (S<n>, T<n>) and of the
rules, or are worked out by hand from them. -/

namespace Sys2Proof.Tests

open Sys2Proof.Machine Sys2Proof.Safety

/-! ### Well-formedness -/

/-- `0x6105` is load-const's word, so it is no unhandled instruction. -/
theorem test_unhandled_of_a_handled_word_is_ill_formed : (Instr.unhandled 0x6105).wellFormed = false := by decide

theorem test_unhandled_of_an_unhandled_word_is_well_formed : (Instr.unhandled 0x8AB8).wellFormed = true := by decide

/-! ### Decoding: words written out nibble by nibble from the patterns of R69 -/

theorem test_decode_flow :
    decode 0x00E0 = .clearScreen ∧ decode 0x01E0 = .clearScreen ∧ decode 0x00EE = .ret ∧ decode 0x0FEE = .ret ∧
    decode 0x1234 = .jump 0x234 ∧ decode 0x2FFE = .call 0xFFE := by decide

theorem test_decode_skips :
    decode 0x3105 = .skipEqConst 1 0x05 ∧ decode 0x4F01 = .skipNeqConst 0xF 0x01 ∧ decode 0x5121 = .skipEqReg 1 2 ∧
    decode 0x912F = .skipNeqReg 1 2 := by decide

theorem test_decode_loads :
    decode 0x6A7F = .loadConst 0xA 0x7F ∧ decode 0x7103 = .addConst 1 0x03 ∧ decode 0xA123 = .loadIndex 0x123 ∧
    decode 0xBFFF = .jumpOffset 0xFFF ∧ decode 0xC10F = .randomAnd 1 0x0F ∧ decode 0xD125 = .draw 1 2 5 := by decide

theorem test_decode_alu :
    decode 0x8120 = .copy 1 2 ∧ decode 0x8121 = .orReg 1 2 ∧ decode 0x8122 = .andReg 1 2 ∧ decode 0x8123 = .xorReg 1 2 ∧
    decode 0x8124 = .addReg 1 2 ∧ decode 0x8125 = .subReg 1 2 ∧ decode 0x8126 = .shiftRight 1 2 ∧
    decode 0x8127 = .subRegReverse 1 2 ∧ decode 0x812E = .shiftLeft 1 2 := by decide

theorem test_decode_keys : decode 0xE39E = .skipKeyPressed 3 ∧ decode 0xE3A1 = .skipKeyNotPressed 3 := by decide

theorem test_decode_system :
    decode 0xF107 = .readDelayTimer 1 ∧ decode 0xF20A = .blockOnKey 2 ∧ decode 0xF115 = .setDelayTimer 1 ∧
    decode 0xF118 = .setSoundTimer 1 ∧ decode 0xF11E = .addToIndex 1 ∧ decode 0xF029 = .loadFontSprite 0 ∧
    decode 0xF133 = .storeBcd 1 ∧ decode 0xF255 = .storeRegisters 2 ∧ decode 0xF265 = .loadRegisters 2 := by decide

/-- T3, T4, T7 to T10: no row of R69 selects these. -/
theorem test_decode_unhandled :
    decode 0x0000 = .unhandled 0x0000 ∧ decode 0x0123 = .unhandled 0x0123 ∧ decode 0x8AB8 = .unhandled 0x8AB8 ∧
    decode 0xE1A2 = .unhandled 0xE1A2 ∧ decode 0xF10B = .unhandled 0xF10B ∧ decode 0xF166 = .unhandled 0xF166 := by decide

theorem test_decode_bytes :
    decodeBytes [0x81, 0x24, 0x60] = .ok (.addReg 1 2, [0x60]) ∧ decodeBytes [0x81] = .error .truncated := ⟨rfl, rfl⟩

theorem test_decode_table_word : decodeTableWord 16 0x8124 = some (.addReg 1 2) := by decide

theorem test_encode : encode (.addReg 1 2) = 0x8124 ∧ encode (.loadRegisters 2) = 0xF265 ∧ encode (.jump 0x234) = 0x1234 ∧
    encode (.skipNeqReg 1 2) = 0x9120 := by decide

/-! ### One tick from reset -/

/-- The state after the tick that executes the word `w` from a state. -/
def run (w : Nat) (s : State) : State :=
  match step (s.withFetchWord 16 w) with
  | .next t => t
  | .fault _ | .refused _ => s

/-- The reset state with two registers set. -/
def regs (x : Nibble) (a : Byte) (y : Nibble) (b : Byte) : State := (State.reset.setV x a).setV y b

/-- The reset state with `I` and a register set. -/
def idx (i : Word16) (x : Nibble) (a : Byte) : State := (State.reset.setI i).setV x a

/-- T1, T2. -/
theorem test_clear_screen : (run 0x01E0 State.reset).ports = [.clear] ∧ (run 0x01E0 State.reset).pc = 0x202 := by decide

/-- S6: the next fetch is at an odd address. -/
theorem test_return : (run 0x00EE { State.reset with stack := [0x1] }).pc = 0x1 ∧
    (run 0x00EE { State.reset with stack := [0x1] }).stack = [] := by decide

/-- T25. -/
theorem test_return_underflow : (run 0x00EE State.reset).fault = some ⟨.stackUnderflow, 0x200, none⟩ ∧
    (run 0x00EE State.reset).pc = 0x202 := by decide

/-- T20. -/
theorem test_jump : (run 0x1FFF State.reset).pc = 0xFFF := by decide

/-- T21. -/
theorem test_call : (run 0x2FFE { State.reset with pc := 0x300 }).stack = [0x302] ∧
    (run 0x2FFE { State.reset with pc := 0x300 }).pc = 0xFFE := by decide

/-- T24: the capacity is the parameter's. -/
theorem test_call_overflow :
    (run 0x2400 { State.reset with stack := List.replicate 12 0x202, params := ⟨.d12, .vy, 0x50⟩ }).fault =
      some ⟨.stackOverflow, 0x200, none⟩ := by decide

/-- T26, T27. -/
theorem test_skip_const : (run 0x3F00 State.reset).skip = true ∧ (run 0x4F01 State.reset).skip = true ∧
    (run 0x4F00 State.reset).skip = false := by decide

/-- T5, T6, T28. -/
theorem test_skip_reg : (run 0x5121 (regs 1 3 2 3)).skip = true ∧ (run 0x912F (regs 1 3 2 3)).skip = false ∧
    (run 0x9010 (regs 0 7 1 8)).skip = true := by decide

/-- T63, T40. -/
theorem test_load_add_const : (run 0x6A7F State.reset).getV 0xA = 0x7F ∧ (run 0x7FFF (regs 0 0 0xF 1)).getV 0xF = 0 ∧
    (run 0x70FF (regs 0 2 1 0)).getV 0xF = 0 := by decide

/-- T57, T58, T59, T60. -/
theorem test_copy_bitwise : (run 0x8120 (regs 1 0 2 0x33)).getV 1 = 0x33 ∧
    (run 0x8121 (regs 1 0xF0 2 0x0F)).getV 1 = 0xFF ∧ (run 0x8122 (regs 1 0xF0 2 0x3C)).getV 1 = 0x30 ∧
    (run 0x8FF3 (regs 0 0 0xF 0x55)).getV 0xF = 0 := by decide

/-- T43, T44: `VF` as destination and as operand. -/
theorem test_add_reg : (run 0x8F14 (regs 0xF 0x10 1 0x20)).getV 0xF = 0x30 ∧
    (run 0x81F4 (regs 0xF 0xFF 1 0x01)).getV 1 = 0 ∧ (run 0x81F4 (regs 0xF 0xFF 1 0x01)).getV 0xF = 1 := by decide

/-- S8, T46. -/
theorem test_sub_reg : (run 0x8125 (regs 1 0x20 2 0x80)).getV 1 = 0xA0 ∧ (run 0x8125 (regs 1 0x20 2 0x80)).getV 0xF = 1 ∧
    (run 0x8F25 (regs 0xF 0x10 2 0x20)).getV 0xF = 0xF0 := by decide

/-- T50, T48. -/
theorem test_sub_reg_reverse : (run 0x8127 (regs 1 0x80 2 0x20)).getV 1 = 0xA0 ∧
    (run 0x8127 (regs 1 0x80 2 0x20)).getV 0xF = 1 ∧ (run 0x8127 (regs 1 0x20 2 0x20)).getV 0xF = 0 := by decide

/-- T51, T53. -/
theorem test_shift_right : (run 0x8126 (regs 1 0xFF 2 0x01)).getV 1 = 0 ∧ (run 0x8126 (regs 1 0xFF 2 0x01)).getV 0xF = 1 ∧
    (run 0x8F26 (regs 1 0 2 0x03)).getV 0xF = 1 := by decide

/-- T52, T54. -/
theorem test_shift_left : (run 0x812E (regs 1 0xFF 2 0x80)).getV 1 = 0 ∧ (run 0x812E (regs 1 0xFF 2 0x80)).getV 0xF = 1 ∧
    (run 0x8F2E (regs 1 0 2 0x81)).getV 0xF = 2 := by decide

/-- T55, T56: the quirk. -/
theorem test_shift_source_vx :
    (run 0x8126 { regs 1 0x05 2 0xFF with params := ⟨.d16, .vx, 0x50⟩ }).getV 1 = 2 ∧
    (run 0x812E { regs 1 0x81 2 0x00 with params := ⟨.d16, .vx, 0x50⟩ }).getV 1 = 2 := by decide

/-- One draw is made and `PC` moves on, whatever the byte (T62). -/
theorem test_random_and : (run 0xC10F State.reset).ports = [.rand] ∧ (run 0xC10F State.reset).pc = 0x202 := by decide

/-- T70, T71. -/
theorem test_index_loads : (run 0xA123 State.reset).i = 0x123 ∧ (run 0xBFFF (idx 0 0 0xFF)).i = 0x10FE ∧
    (run 0xBFFF (idx 0 0 0xFF)).pc = 0x202 := by decide

/-- T73, T74. -/
theorem test_add_to_index : (run 0xF11E (idx 0xFFF 1 2)).i = 1 ∧ (run 0xF11E (idx 0x10FE 1 0)).i = 0xFE := by decide

/-- T75, T76. -/
theorem test_load_font_sprite : (run 0xF029 (idx 0 0 0x1A)).i = 0x82 ∧ (run 0xF029 (idx 0 0 0xF)).i = 0x9B := by decide

/-- T77, T79. -/
theorem test_store_bcd : (run 0xF133 (idx 0x300 1 0xFF)).readBytes 0x300 3 = [2, 5, 5] ∧
    (run 0xF133 (idx 0xFFD 1 7)).readBytes 0xFFD 3 = [0, 0, 7] := by decide

/-- T80: no byte is written. -/
theorem test_store_bcd_fault : (run 0xF133 (idx 0xFFE 1 7)).fault = some ⟨.memoryOutOfRange, 0x200, some 0x1000⟩ ∧
    (run 0xF133 (idx 0xFFE 1 7)).mem = (State.reset.withFetchWord 16 0xF133).mem := by decide

/-- T81, T82. -/
theorem test_store_registers : (run 0xFF55 (idx 0xFF0 0xF 9)).readByte 0xFFF = 9 ∧
    (run 0xFF55 (idx 0xFF1 0xF 9)).fault = some ⟨.memoryOutOfRange, 0x200, some 0x1000⟩ := by decide

/-- The glyph of 0 (R150) at the default `FONT_BASE`; T85. -/
theorem test_load_registers : (run 0xF265 (idx 0x50 3 9)).getRegs 4 = [0xF0, 0x90, 0x90, 9] ∧
    (run 0xF065 (idx 0x10FE 0 1)).fault = some ⟨.memoryOutOfRange, 0x200, some 0x10FE⟩ := by decide

/-- T93: the display gets glyph 0. -/
theorem test_draw : (run 0xD115 (idx 0x50 1 0)).ports = [.draw 0 0 5 [0xF0, 0x90, 0x90, 0x90, 0xF0]] := by decide

/-- T90, T91: no byte is read for `N = 0`, and a draw that faults calls no display. -/
theorem test_draw_edges : (run 0xD120 (idx 0x10FE 1 0)).ports = [.draw 0 0 0 []] ∧
    (run 0xD125 (idx 0xFFC 1 0)).fault = some ⟨.memoryOutOfRange, 0x200, some 0x1000⟩ ∧
    (run 0xD125 (idx 0xFFC 1 0)).ports = [] := by decide

/-- The query carries the full byte (T96). -/
theorem test_key_skips : (run 0xE39E (idx 0 3 0x17)).ports = [.keyPressed 0x17] ∧
    (run 0xE3A1 (idx 0 3 0x17)).ports = [.keyPressed 0x17] := by decide

/-- T98, T99. -/
theorem test_block_on_key : (run 0xF20A State.reset).wait = some 2 ∧ (run 0xF20A State.reset).pc = 0x202 ∧
    (keyEvent 7 (run 0xF20A State.reset)).getV 2 = 7 ∧ (keyEvent 7 (run 0xF20A State.reset)).wait = none := by decide

/-- T102, T103, T104. -/
theorem test_timers : (run 0xF107 { State.reset with dt := 0x42 }).getV 1 = 0x42 ∧ (run 0xF115 (idx 0 1 0x3C)).dt = 0x3C ∧
    (run 0xF118 (idx 0 1 1)).st = 1 := by decide

/-- T7. -/
theorem test_unhandled : run 0x8AB8 State.reset = (State.reset.withFetchWord 16 0x8AB8).setPc 0x202 := by decide

/-! ### The cycle and the host's operations -/

/-- T12: no wrap. -/
theorem test_fetch_at_top : (run 0x0000 { State.reset with pc := 0xFFE }).pc = 0x1000 := by decide

/-- T13, T14. -/
theorem test_fetch_fault :
    step { State.reset with pc := 0xFFF } =
      .next { State.reset with pc := 0xFFF, fault := some ⟨.memoryOutOfRange, 0xFFF, some 0x1000⟩ } ∧
    step { State.reset with pc := 0x1000 } =
      .next { State.reset with pc := 0x1000, fault := some ⟨.memoryOutOfRange, 0x1000, some 0x1000⟩ } := ⟨rfl, rfl⟩

/-- T11: the word passed over is not executed. -/
theorem test_pending_skip : (match step ({ State.reset with skip := true }.writeBytes 0x200 [0x12, 0x34]) with
    | .next t => (t.pc, t.skip) | _ => (0, true)) = (0x204, false) := by decide

/-- T105, T107, T108. -/
theorem test_timer_tick : (timerTick { State.reset with dt := 1, st := 0xFF }).dt = 0 ∧
    (timerTick { State.reset with dt := 1, st := 0xFF }).st = 0xFE ∧ timerTick State.reset = State.reset := by decide

/-- T100, T101. -/
theorem test_key_event_ignored : keyEvent 7 State.reset = State.reset ∧
    keyEvent 7 { State.reset with fault := some ⟨.stackOverflow, 0x200, none⟩, wait := some 2 } =
      { State.reset with fault := some ⟨.stackOverflow, 0x200, none⟩, wait := some 2 } := by decide

/-- T113, T114. -/
theorem test_load_rom :
    (loadRom [0x60, 0x01] { State.reset with fault := some ⟨.stackUnderflow, 0x200, none⟩ }).readBytes 0x200 2 = [0x60, 0x01] ∧
    (loadRom [0x60, 0x01] { State.reset with fault := some ⟨.stackUnderflow, 0x200, none⟩ }).fault = none ∧
    loadRom [] State.reset = State.reset := by decide

/-- T111, T112: 3585 bytes do not fit and 3584 do. -/
theorem test_load_answer : loadAnswer (List.replicate 3585 0) = .romTooLarge ∧
    loadAnswer (List.replicate 3584 0) = .loaded := by
  rw [loadAnswer, loadAnswer, List.length_replicate, List.length_replicate]
  exact ⟨rfl, rfl⟩

/-- The schedule of 95_test_vectors.md section 9, one operation: the timer tick comes before the next tick. -/
theorem test_schedule : step { State.reset with dt := 2, schedule := [.timerTick, .tick] } =
    .next { State.reset with dt := 1, schedule := [.tick] } := rfl

/-- The font's last byte is that of glyph F, and the byte after it is 0. -/
theorem test_font : State.reset.readByte 0x9F = 0x80 ∧ State.reset.readByte 0xA0 = 0 ∧ State.reset.readByte 0x4F = 0 := by decide

/-! ### Witnesses: for each statement with hypotheses, a state and operands that meet them all, one for each clause -/

/-- Every row selects a word with all its operand bits 0 and one with all of them 1: the hypotheses of the form
`w &&& mask = match`. -/
theorem witness_rows : ∀ r ∈ opcodeMap, r.pattern &&& r.mask = r.pattern ∧ (r.pattern ||| ~~~r.mask) &&& r.mask = r.pattern := by
  decide

theorem witness_DecodeOfEncodeIsTheInstruction :
    (Instr.draw 0xF 0 0xF).wellFormed = true ∧ (Instr.unhandled 0xFFFF).wellFormed = true := by decide

theorem witness_IdentifierIsTheWordUnderTheGroupMask :
    (0x8FFF#16).toNat / 4096 = 0x8 ∧ (0xE000#16).toNat / 4096 = 0xE ∧
    ((0xFF0F#16).toNat / 4096 = 0xF ∧ (0xFF0F#16).toNat / 16 % 16 = 0) ∧
    ((0xF010#16).toNat / 4096 = 0xF ∧ (0xF010#16).toNat / 16 % 16 ≠ 0) ∧ (0x0FFF#16).toNat / 4096 = 0x0 ∧
    ((0x7FFF#16).toNat / 4096 ≠ 0x8 ∧ (0x7FFF#16).toNat / 4096 ≠ 0xE ∧ (0x7FFF#16).toNat / 4096 ≠ 0xF ∧
      (0x7FFF#16).toNat / 4096 ≠ 0x0) := by decide

theorem witness_OpcodeMapSelectsByIdentifier :
    (⟨0x8004#16, 0x8004#16, 0xF00F#16⟩ : OpRow) ∈ opcodeMap ∧ OpRow.selects ⟨0x8004#16, 0x8004#16, 0xF00F#16⟩ 0x8FF4#16 = true := by
  decide

/-- A faulted engine that the host resets. -/
theorem witness_HostResetGivesTheResetState :
    State.nextOp { State.reset with fault := some ⟨.stackOverflow, 0x200, none⟩, schedule := [.reset] } = .reset := rfl

theorem nextOp_loadRom (bs : List Byte) : State.nextOp { State.reset with schedule := [.loadRom bs] } = .loadRom bs := rfl

/-- There is a ROM of every length: the largest that fits has 3584 bytes and the smallest that does not has 3585. -/
theorem witness_RomLoadCopiesOverTheResetStateOrIsRejected (n : Nat) :
    ∃ bs : List Byte, State.nextOp { State.reset with schedule := [.loadRom bs] } = .loadRom bs ∧ bs.length = n :=
  ⟨List.replicate n 1, nextOp_loadRom _, List.length_replicate⟩

/-- A running engine inside a call, with a byte stored and `I` past the top. -/
def busy : State := { State.reset with pc := 0x1000, stack := [0x1000, 0x206], i := 0x10FE, mem := [(0x50, 1), (0x300, 5)] }

theorem busy_memory : busy.mem.wf busy.params.fontBase.val := by
  show Memory.wf 0x50 [(0x50, 1), (0x300, 5)]
  decide

theorem busy_depth : busy.stack.length ≤ busy.params.stackDepth.entries := by
  show 2 ≤ 16
  decide

theorem busy_entries : ∀ a ∈ busy.stack, a.toNat ≤ 0x1000 := by
  intro a ha
  simp only [busy, List.mem_cons, List.not_mem_nil, or_false] at ha
  rcases ha with rfl | rfl <;> decide

theorem busy_bounds : busy.pc.toNat ≤ 0x1000 ∧ busy.i.toNat ≤ 0x10FE := by decide

theorem witness_EveryStepKeepsTheInvariant : Inv busy ∧ ∃ t, step busy = .next t := by
  obtain ⟨h3, h4⟩ := busy_bounds
  exact ⟨⟨busy_memory, busy_depth, busy_entries, fun _ => h3, Nat.le_trans h3 (by decide), h4, fun _ => rfl, fun _ => rfl,
    fun _ h => by cases h⟩, step_next busy⟩

/-- The last fetch that is in range, with and without a pending skip. -/
theorem witness_StepRunsTheDecodedInstruction :
    (fetchesAt { State.reset with pc := 0xFFE } 0xFFE ∧ decodeBytes [0x00, 0x00] = .ok (.unhandled 0, [])) ∧
    fetchesAt { State.reset with pc := 0xFFC, skip := true } 0xFFE :=
  ⟨⟨⟨rfl, rfl, rfl, rfl, by decide⟩, rfl⟩, rfl, rfl, rfl, rfl, by decide⟩

theorem witness_TickWhileLatchedChangesNothing :
    State.fault { State.reset with fault := some ⟨.stackOverflow, 0x200, none⟩ } = some ⟨.stackOverflow, 0x200, none⟩ ∧
    (State.fault { State.reset with wait := some 3 } = none ∧ State.wait { State.reset with wait := some 3 } = some 3) ∧
    (State.nextOp { State.reset with wait := some 3 } = .tick ∧ State.wait { State.reset with wait := some 3 } ≠ none) := by
  decide

/-- The lowest address no word can be fetched from, with and without a pending skip. -/
theorem witness_FetchPastTheTopFaults :
    (0xFFF#16 = (if ({ State.reset with pc := 0xFFF } : State).skip then 0xFFF#16 + 2 else 0xFFF#16) ∧ 0xFFF < (0xFFF#16).toNat + 1) ∧
    0xFFF#16 = (if ({ State.reset with pc := 0xFFD, skip := true } : State).skip then 0xFFD#16 + 2 else 0xFFD#16) ∧
    State.reset.nextOp = .tick ∧ State.reset.fault = none ∧ State.reset.wait = none := by decide

/-- The reset state with a word placed where it fetches. -/
def placed (w : Nat) : State := State.reset.withFetchWord 16 w

theorem fetches_placed_draw : fetches (placed 0xD125) 0x200 (.draw 1 2 5) := ⟨⟨rfl, rfl, rfl, rfl, by decide⟩, by decide⟩

theorem witness_PendingSkipPassesOverOneWord :
    State.nextOp { placed 0x6105 with pc := 0x1FE, skip := true } = .tick ∧
    fetches { placed 0x6105 with pc := 0x1FE, skip := true } (0x1FE#16 + 2) (.loadConst 1 5) ∧
    Instr.loadConst 1 5 ≠ .ret ∧ ∀ nnn, Instr.loadConst 1 5 ≠ .jump nnn ∧ Instr.loadConst 1 5 ≠ .call nnn :=
  ⟨rfl, ⟨⟨rfl, rfl, rfl, rfl, by decide⟩, by decide⟩, by simp, fun _ => ⟨by simp, by simp⟩⟩

theorem witness_UnhandledWordOnlyMovesPc : fetches (placed 0x8AB8) 0x200 (.unhandled 0x8AB8) :=
  ⟨⟨rfl, rfl, rfl, rfl, by decide⟩, by decide⟩

/-- A jump, a call, a return and another instruction; a waiting engine; a fetch that faults. -/
theorem witness_PcChangesOnlyAsListed :
    fetches (placed 0x1FFF) 0x200 (.jump 0xFFF) ∧ fetches (placed 0x2FFE) 0x200 (.call 0xFFE) ∧
    fetches (placed 0x00EE) 0x200 .ret ∧ fetches (placed 0xD125) 0x200 (.draw 1 2 5) ∧
    State.wait { State.reset with wait := some 3 } ≠ none ∧ (∀ a, ¬ fetchesAt { State.reset with pc := 0xFFF } a) ∧
    ∃ t, step (placed 0x1FFF) = .next t := by
  refine ⟨⟨⟨rfl, rfl, rfl, rfl, by decide⟩, by decide⟩, ⟨⟨rfl, rfl, rfl, rfl, by decide⟩, by decide⟩,
    ⟨⟨rfl, rfl, rfl, rfl, by decide⟩, by decide⟩, fetches_placed_draw, by decide, ?_, _, rfl⟩
  rintro a ⟨-, -, -, h1, h2⟩
  simp only [Bool.false_eq_true, if_false, State.reset] at h1
  subst h1
  exact absurd h2 (by decide)

/-- The three ends: P5's, P4's and P1's (a self-jump). -/
theorem witness_RunEndIsLeftByNoTick :
    runEnd { State.reset with fault := some ⟨.stackOverflow, 0x200, none⟩ } = some (.faulted ⟨.stackOverflow, 0x200, none⟩) ∧
    runEnd { State.reset with wait := some 2 } = some (.waiting 2) ∧ runEnd (placed 0x1200) = some .spinning ∧
    (placed 0x1200).nextOp = .tick := by decide

theorem witness_ReturnPopsIntoPc :
    State.stack { State.reset with stack := [0x1] } = 0x1 :: [] ∧ State.reset.stack = [] := ⟨rfl, rfl⟩

theorem witness_JumpWritesPc :
    0xFFF#12 = 0xFFF#12 ∧ State.reset.nextOp = .tick ∧ State.reset.fault = none ∧ State.reset.wait = none ∧
    State.reset.skip = false := by decide

/-- One entry left, and none, at both ends of the range of `STACK_DEPTH`. -/
theorem witness_CallPushesPcAndJumps :
    (List.replicate 15 0x202#16).length < State.reset.params.stackDepth.entries ∧
    State.reset.params.stackDepth.entries ≤ (List.replicate 16 0x202#16).length ∧
    (List.replicate 11 0x202#16).length < Config.StackDepth.d12.entries ∧
    Config.StackDepth.d12.entries ≤ (List.replicate 12 0x202#16).length := by decide

/-- S3, at 0x200, with the subroutine at the highest address a fetch can reach. -/
theorem witness_CallThenReturnRestoresTheState :
    let s := (placed 0x2FFE).writeBytes 0xFFE [0x00, 0xEE]
    s.schedule = [] ∧ s.skip = false ∧ fetches s s.pc (.call 0xFFE) ∧ (0xFFE#12).toNat + 1 ≤ 0xFFF ∧
    decode (s.readByte (0xFFE#12).toNat ++ s.readByte ((0xFFE#12).toNat + 1)) = .ret ∧
    s.stack.length < s.params.stackDepth.entries :=
  ⟨rfl, rfl, ⟨⟨rfl, rfl, rfl, rfl, by decide⟩, by decide⟩, by decide, by decide, by decide⟩

theorem witness_flag_register_is_no_destination : (0xE#4 : Nibble) ≠ 15#4 := by decide

/-- Both values of `SHIFT_SOURCE`. -/
theorem witness_ShiftsWriteResultAndBitMovedOut :
    (0x80 : Byte) = (if (regs 1 1 2 0x80).params.shiftSource = .vy then (regs 1 1 2 0x80).getV 2 else (regs 1 1 2 0x80).getV 1) ∧
    (1 : Byte) = (if ({ regs 1 1 2 0x80 with params := ⟨.d16, .vx, 0x1B0⟩ } : State).params.shiftSource = .vy
      then (regs 1 1 2 0x80).getV 2 else (regs 1 1 2 0x80).getV 1) := by decide

theorem witness_RegistersAreWrittenOnlyAsListed :
    writesV (.addReg 1 2) 2 = false ∧ writesV (.loadRegisters 3) 4 = false ∧ writesV .clearScreen 0 = false := by decide

/-- Only `V[0]`, which add-reg of `V1`, `V2` does not read, differs. -/
theorem witness_RegistersAreReadOnlyAsListed :
    ∀ z, readsV State.reset.params.shiftSource (.addReg 1 2) z = true →
      ({ State.reset with v := (State.reset.setV 0 9).v } : State).getV z = State.reset.getV z := by
  decide

/-- The highest `I` that each store and load can use, and the lowest that it cannot. -/
theorem witness_transfers_at_the_top :
    ((idx 0xFFD 1 7).i.toNat + 2 ≤ 0xFFF ∧ (idx 0xFFE 1 7).i.toNat + 2 > 0xFFF) ∧
    ((idx 0xFF0 1 7).i.toNat + (15#4).toNat ≤ 0xFFF ∧ (idx 0xFF1 1 7).i.toNat + (15#4).toNat > 0xFFF) ∧
    ((idx 0xFFF 1 7).i.toNat + (0#4).toNat ≤ 0xFFF ∧ (idx 0x1000 1 7).i.toNat + (0#4).toNat > 0xFFF) ∧
    ((0#4).toNat ≤ (15#4).toNat ∧ (0#4).toNat < (15#4).toNat) := by decide

theorem witness_StoredInstructionIsFetchedNext :
    State.nextOp { idx 0x300 1 7 with pc := 0x300 } = .tick ∧ 1 ≤ (1#4).toNat ∧ (idx 0x300 1 7).i.toNat + (1#4).toNat ≤ 0xFFF ∧
    State.pc { idx 0x300 1 7 with pc := 0x300 } = State.i { idx 0x300 1 7 with pc := 0x300 } := by decide

/-- T90, T92, T91. -/
theorem witness_DrawPassesTheSpriteAndWritesCollision :
    (0#4 : Nibble) = 0#4 ∧ (idx 0xFFB 1 5).i.toNat + (5#4).toNat - 1 ≤ 0xFFF ∧
    ((5#4).toNat > 0 ∧ (idx 0xFFC 1 5).i.toNat + (5#4).toNat - 1 > 0xFFF) := by decide

theorem witness_KeySkipsWriteTheSkipFlag :
    ∃ pressed, pressed = Config.keyPressed State.reset.ports.length (State.reset.getV 3) := ⟨_, rfl⟩

theorem witness_BlockOnKeyWaitsForAKeyEvent : State.reset.fault = none := rfl

theorem witness_KeyEventCompletesOnlyAWait :
    State.nextOp { State.reset with wait := some 0xF, schedule := [.keyEvent 0xF] } = .keyEvent 0xF ∧
    State.wait { State.reset with wait := some 0xF, schedule := [.keyEvent 0xF] } = some 0xF ∧
    State.wait { State.reset with schedule := [.keyEvent 0] } = none := ⟨rfl, rfl, rfl⟩

theorem witness_TimerTickDecrementsBothTimers :
    State.nextOp { State.reset with dt := 0xFF, schedule := [.timerTick] } = .timerTick := rfl

theorem witness_FaultsAreThoseOfTheCauseTable :
    State.reset.fault = none ∧ ∃ t, exec .ret State.reset = .next t ∧ t.fault = some ⟨.stackUnderflow, 0x1FE, none⟩ :=
  ⟨rfl, _, rfl, rfl⟩

theorem witness_FaultingInstructionHasNoOtherEffect :
    (idx 0xFFC 1 0).fault = none ∧ ∃ t r, exec (.draw 1 2 5) (idx 0xFFC 1 0) = .next t ∧ t.fault = some r :=
  ⟨rfl, _, _, rfl, rfl⟩

theorem witness_FaultIsLeftOnlyByAReset :
    resets { State.reset with fault := some ⟨.stackOverflow, 0x200, none⟩, schedule := [.loadRom []] } ∧
    ¬ resets { State.reset with fault := some ⟨.stackOverflow, 0x200, none⟩ } := by
  refine ⟨.inr ⟨[], rfl, by decide⟩, ?_⟩
  rintro (h | ⟨_, h, -⟩) <;> cases h

/-- A skip that is set, one that is consumed by a tick and one that a reset clears. -/
theorem witness_SkipFlagIsSetOnlyBySixInstructions :
    ((placed 0x3100).skip = false ∧ ∃ t, step (placed 0x3100) = .next t ∧ t.skip = true) ∧
    (∃ t, step { State.reset with skip := true } = .next t ∧ t.skip = false) ∧
    (∃ t, step { State.reset with skip := true, schedule := [.reset] } = .next t ∧ t.skip = false) :=
  ⟨⟨rfl, _, rfl, by decide⟩, ⟨_, rfl, by decide⟩, _, rfl, rfl⟩

/-- An instruction that is none of the timer instructions, a tick that fetches one, and a timer tick. -/
theorem witness_TimersAreReadAndWrittenOnlyAsListed :
    (∀ x, Instr.ret ≠ .setDelayTimer x ∧ Instr.ret ≠ .setSoundTimer x ∧ Instr.ret ≠ .readDelayTimer x) ∧
    (¬ resets (placed 0x8AB8) ∧ (placed 0x8AB8).nextOp ≠ .timerTick ∧ ∃ t, step (placed 0x8AB8) = .next t) ∧
    (∀ a x, ¬ fetches (placed 0x8AB8) a (.setDelayTimer x) ∧ ¬ fetches (placed 0x8AB8) a (.setSoundTimer x)) ∧
    ∃ t, step { State.reset with dt := 1, schedule := [.timerTick] } = .next t := by
  refine ⟨fun _ => ⟨by simp, by simp, by simp⟩, ⟨?_, by decide, _, rfl⟩, fun a x => ⟨?_, ?_⟩, _, rfl⟩
  · rintro (h | ⟨_, h, -⟩) <;> cases h
  all_goals
    rintro ⟨⟨-, -, -, rfl, -⟩, h⟩
    have h' : decode ((placed 0x8AB8).readByte 0x200 ++ (placed 0x8AB8).readByte 0x201) = .unhandled 0x8AB8 := by decide
    exact absurd (h'.symm.trans h) (by simp)

theorem witness_MemoryIsWrittenOnlyByTheStores :
    ∃ t, step ((placed 0xF055).setI 0x300 |>.setV 0 7) = .next t ∧
      t.readByte 0x300 ≠ ((placed 0xF055).setI 0x300 |>.setV 0 7).readByte 0x300 := ⟨_, rfl, by decide⟩

/-- The hypothesis of the statements about what a step writes: a call, a key wait, a random draw and an index write. -/
theorem witness_steps :
    (∃ t, step (placed 0x2300) = .next t ∧ t.stack = [0x202]) ∧ (∃ t, step (placed 0xF20A) = .next t ∧ t.wait = some 2) ∧
    (∃ t, step (placed 0xC1FF) = .next t ∧ t.ports = [.rand]) ∧ (∃ t, step (placed 0xA123) = .next t ∧ t.i = 0x123) :=
  ⟨⟨_, rfl, by decide⟩, ⟨_, rfl, by decide⟩, ⟨_, rfl, by decide⟩, _, rfl, by decide⟩

theorem witness_ReadAfterWriteReturnsTheByte : (0xFFF : Nat) ≠ 0x1000 := by decide

theorem witness_CanonicalMemoryIsDeterminedByItsBytes :
    Memory.wf 0x50 [(0x50, 1), (0xFFF, 5)] ∧ (∀ a, Memory.read 0x50 [(0x50, 1), (0xFFF, 5)] a = Memory.read 0x50 [(0x50, 1), (0xFFF, 5)] a) :=
  ⟨by decide, fun _ => rfl⟩

end Sys2Proof.Tests
end

section
/-! SUPPORT. A slice of a word as a masked and shifted word, and the nibbles of a word as quotients; with them the
statements about the operand fields (30_encoding.md R61) and about the opcode identifier (R64). -/

namespace Sys2Proof

/-! ### Slices of a word (R60, R61) -/

/-- The `l` bits from bit `s` on are the word under the mask of those bits, shifted down. -/
theorem toNat_extractLsb'_eq_toNat_and_mask_shiftRight {n : Nat} (w : BitVec n) (s l : Nat) :
    (w.extractLsb' s l).toNat = ((w &&& (BitVec.allOnes l).setWidth n <<< s) >>> s).toNat := by
  apply Nat.eq_of_testBit_eq
  intro k
  have hbound : w.getLsbD (s + k) = true → s + k < n := BitVec.lt_of_getLsbD
  simp only [BitVec.testBit_toNat, BitVec.getLsbD_extractLsb', BitVec.getLsbD_ushiftRight, BitVec.getLsbD_and,
    BitVec.getLsbD_shiftLeft, BitVec.getLsbD_setWidth, BitVec.getLsbD_allOnes]
  grind

theorem topNibble_toNat (w : Word16) : (topNibble w).toNat = w.toNat / 4096 := by
  rw [topNibble, BitVec.extractLsb'_toNat, Nat.shiftRight_eq_div_pow]
  omega

theorem fieldY_toNat (w : Word16) : (fieldY w).toNat = w.toNat / 16 % 16 := by
  rw [fieldY, BitVec.extractLsb'_toNat, Nat.shiftRight_eq_div_pow]

theorem topNibble_eq_iff (w : Word16) (t : Nibble) : topNibble w = t ↔ w.toNat / 4096 = t.toNat := by
  rw [← BitVec.toNat_inj, topNibble_toNat]

theorem fieldY_eq_iff (w : Word16) (y : Nibble) : fieldY w = y ↔ w.toNat / 16 % 16 = y.toNat := by
  rw [← BitVec.toNat_inj, fieldY_toNat]

/-- Settles O4: each field is a slice, and its mask has ones at just the bits of the slice. -/
theorem operandFieldsAreTheMaskedSlices : Obligations.OperandFieldsAreTheMaskedSlices := by
  intro w
  have slice := toNat_extractLsb'_eq_toNat_and_mask_shiftRight w
  exact ⟨slice 0 12, slice 8 4, slice 4 4, slice 0 8, slice 0 4⟩

/-! ### The identifier by group (R64) -/

section
variable {w : Word16}

theorem ident_of_top_8 (h : w.toNat / 4096 = 0x8) : ident w = w &&& 0xF00F#16 := by
  simp [ident, topNibble_eq_iff, h]

theorem ident_of_top_E (h : w.toNat / 4096 = 0xE) : ident w = w &&& 0xF0FF#16 := by
  simp [ident, topNibble_eq_iff, h]

theorem ident_of_top_F (h : w.toNat / 4096 = 0xF) :
    ident w = if w.toNat / 16 % 16 = 0 then w &&& 0xF00F#16 else w &&& 0xF0FF#16 := by
  simp [ident, topNibble_eq_iff, fieldY_eq_iff, h]

theorem ident_of_top_0 (h : w.toNat / 4096 = 0x0) : ident w = w &&& 0x00FF#16 := by
  simp [ident, topNibble_eq_iff, h]

theorem ident_of_top_other (h8 : w.toNat / 4096 ≠ 0x8) (hE : w.toNat / 4096 ≠ 0xE) (hF : w.toNat / 4096 ≠ 0xF)
    (h0 : w.toNat / 4096 ≠ 0x0) : ident w = w &&& 0xF000#16 := by
  simp [ident, topNibble_eq_iff, h8, hE, hF, h0]

end

/-- Settles O5, one group of R64 after the other. -/
theorem identifierIsTheWordUnderTheGroupMask : Obligations.IdentifierIsTheWordUnderTheGroupMask := by
  intro w
  refine ⟨ident_of_top_8, ident_of_top_E, ?yZero, ?yNonzero, ident_of_top_0, ident_of_top_other⟩
  case yZero =>
    intro hF hY
    rw [ident_of_top_F hF, if_pos hY]
  case yNonzero =>
    intro hF hY
    rw [ident_of_top_F hF, if_neg hY]

end Sys2Proof
end

section
/-! SUPPORT. What a step that fetches does: it executes the word at the fetch address in the state after the fetch
(40_cycle.md R76 to R79); with it the statements about every decoded instruction and about the unhandled words (R80). -/

namespace Sys2Proof

open Sys2Proof.Machine Sys2Proof.Safety

/-! ### The word from its two bytes (30_encoding.md R60, 20_memory.md R49) -/

theorem toNat_append_bytes (hi lo : Byte) : (hi ++ lo : Word16).toNat = hi.toNat * 256 + lo.toNat := by
  rw [BitVec.toNat_append, ← Nat.shiftLeft_add_eq_or_of_lt lo.isLt, Nat.shiftLeft_eq]

theorem decodeBytes_pair_eq_ok_iff (hi lo : Byte) (i : Instr) :
    decodeBytes [hi, lo] = .ok (i, []) ↔ decode (hi ++ lo) = i := by
  simp [decodeBytes]

/-! ### A step that fetches (R78, R79) -/

section
variable {s : State} {a : Word16} {i : Instr}

/-- The state the fetch starts in: the operation is taken off the schedule and a pending skip is consumed (R76). -/
theorem consumeSkip_takeOp_of_fetchesAt (h : fetchesAt s a) :
    s.takeOp.consumeSkip = { s with pc := a, skip := false, schedule := s.schedule.tail } := by
  obtain ⟨-, -, -, rfl, -⟩ := h
  exact State.consumeSkip_eq s.takeOp

theorem step_of_fetches (h : fetches s a i) : step s = exec i (afterFetch s a) := by
  obtain ⟨hat, rfl⟩ := h
  have hstart := consumeSkip_takeOp_of_fetchesAt hat
  obtain ⟨hop, hfault, hwait, -, htop⟩ := hat
  have hgate : s.takeOp.gated = false := State.gated_eq_false.mpr ⟨hfault, hwait⟩
  have hrange : outOfRange s.takeOp.consumeSkip.pc 2 = none := by
    rw [hstart, outOfRange_eq_none, memSize]
    exact .inr (Nat.succ_le_succ htop)
  rw [step_eq, hop, HostOp.perform, tick_execute hgate hrange, hstart]
  rfl

end

/-- Settles O15: bytes that decode to `i` are a fetch of `i`, and the word `w` is the two bytes side by side. -/
theorem stepRunsTheDecodedInstruction : Obligations.StepRunsTheDecodedInstruction := by
  intro s a i hat hbytes
  have hdecode := (decodeBytes_pair_eq_ok_iff _ _ i).mp hbytes
  refine ⟨step_of_fetches ⟨hat, hdecode⟩, fun w hw => ?_⟩
  rw [← hdecode, BitVec.eq_of_toNat_eq (hw.trans (toNat_append_bytes _ _).symm)]

/-- Settles O19: the state an unhandled word leaves is the one it executes in, which is the one after the fetch. -/
theorem unhandledWordOnlyMovesPc : Obligations.UnhandledWordOnlyMovesPc :=
  ⟨fun w s => exec_unhandled s w, fun s a w h => (step_of_fetches h).trans (exec_unhandled (afterFetch s a) w)⟩

end Sys2Proof
end

section
/-! SUPPORT. A step whose fetch faults (40_cycle.md R77), the two outcomes of a call, and a comparison written to the skip
flag; with them the statements about clear-screen, jump, call and the conditional skips (41_control.md R86, R88, R89, R91 to
R94). -/

namespace Sys2Proof

open Sys2Proof.Machine Sys2Proof.Safety

section
variable {s : State}

/-! ### A step whose fetch faults (R77) -/

theorem step_of_fetch_outOfRange {bad : Word16} (hop : s.nextOp = .tick) (hfault : s.fault = none)
    (hwait : s.wait = none) (hbad : outOfRange s.takeOp.consumeSkip.pc 2 = some bad) :
    step s = .next (s.takeOp.consumeSkip.raise .memoryOutOfRange s.takeOp.consumeSkip.pc (some bad)) := by
  have hgate : s.takeOp.gated = false := State.gated_eq_false.mpr ⟨hfault, hwait⟩
  rw [step_eq, hop, HostOp.perform, tick_fetchFault hgate hbad]

/-- The word at 0xFFF would end at 0x1000, which is the first address out of range. -/
theorem step_fault_of_pc_eq_0xFFF (hpc : s.pc = 0xFFF#16) (hop : s.nextOp = .tick) (hfault : s.fault = none)
    (hwait : s.wait = none) (hskip : s.skip = false) :
    ∃ u, step s = .next u ∧ u.fault = some ⟨.memoryOutOfRange, 0xFFF#16, some 0x1000#16⟩ := by
  have hfetch : s.takeOp.consumeSkip.pc = 0xFFF#16 := by
    rw [State.consumeSkip_of_false (s := s.takeOp) hskip, State.takeOp_pc, hpc]
  have hbad : outOfRange s.takeOp.consumeSkip.pc 2 = some 0x1000#16 := by
    rw [hfetch]
    decide
  exact ⟨_, step_of_fetch_outOfRange hop hfault hwait hbad, by rw [State.raise_fault, hfetch]⟩

/-! ### The outcome of a call by the depth of the stack (10_state.md R38) -/

theorem pushJump_of_room (v target : Word16) (h : s.stack.length < s.params.stackDepth.entries) :
    s.pushJump v target = { s with stack := v :: s.stack, pc := target } := by
  obtain ⟨-, heq⟩ | ⟨hfull, -⟩ := s.pushJump_cases v target
  · exact heq
  · exact absurd h hfull.not_gt

theorem pushJump_of_full (v target : Word16) (h : s.params.stackDepth.entries ≤ s.stack.length) :
    s.pushJump v target = s.raiseExec .stackOverflow none := by
  obtain ⟨hroom, -⟩ | ⟨-, heq⟩ := s.pushJump_cases v target
  · exact absurd hroom h.not_gt
  · exact heq

end

/-! ### A comparison as the skip flag (10_state.md R35) -/

theorem setSkip_beq (s : State) (a b : Byte) : s.setSkip (a == b) = { s with skip := decide (a = b) } := rfl

theorem setSkip_bne (s : State) (a b : Byte) : s.setSkip (a != b) = { s with skip := decide (a ≠ b) } := by
  rw [decide_not]
  rfl

/-! ### The statements -/

/-- Settles O22: the words of the row, and the one port call as the whole effect. -/
theorem clearScreenDrivesTheClearPort : Obligations.ClearScreenDrivesTheClearPort :=
  ⟨fun _ => decode_clearScreen, exec_clearScreen⟩

/-- Settles O24: the state after the jump differs in `PC` only, so the step from it meets the latches of the one before. -/
theorem jumpWritesPc : Obligations.JumpWritesPc := by
  refine ⟨fun _ => decode_jump, fun nnn s => ⟨s.setPc (zext16 nnn), exec_jump s nnn, toNat_zext16 nnn, rfl, ?_⟩⟩
  rintro rfl hop hfault hwait hskip
  exact step_fault_of_pc_eq_0xFFF rfl hop hfault hwait hskip

/-- Settles O25, one clause for each outcome of the push. -/
theorem callPushesPcAndJumps : Obligations.CallPushesPcAndJumps := by
  refine ⟨fun _ => decode_call, fun nnn s hroom => ?_, fun nnn s hfull => ?_⟩
  · rw [exec_call, pushJump_of_room _ _ hroom, zext16]
  · rw [exec_call, pushJump_of_full _ _ hfull, State.raiseExec, State.raise]

/-- Settles O27: each skip sets the flag to its comparison, as an equality test on two bytes or as its negation. -/
theorem conditionalSkipsWriteTheSkipFlag : Obligations.ConditionalSkipsWriteTheSkipFlag := by
  refine ⟨fun _ => decode_skipEqConst, fun _ => decode_skipNeqConst, fun _ => decode_skipEqReg,
    fun _ => decode_skipNeqReg, fun x nn s => ⟨?_, ?_⟩, fun x y s => ⟨?_, ?_⟩⟩
  · rw [exec_skipEqConst, setSkip_beq]
  · rw [exec_skipNeqConst, setSkip_bne]
  · rw [exec_skipEqReg, setSkip_beq]
  · rw [exec_skipNeqReg, setSkip_bne]

end Sys2Proof
end

section
/-! SUPPORT. What a write to one register, and the write of a flag and a result, leave in the registers and leave unchanged
(42_alu.md R97); with it the statements about the loads and the arithmetic and bitwise operations (R98 to R106). -/

namespace Sys2Proof

open Sys2Proof.Machine Sys2Proof.Safety

section
variable (s : State) (x : Nibble)

/-! ### A write to one register -/

theorem getV_setV_self (b : Byte) : (s.setV x b).getV x = b := by
  rw [State.getV_setV, if_pos rfl]

theorem sameRegsExcept_setV (b : Byte) : SameRegsExcept [x] s (s.setV x b) := by
  intro y hy
  rw [State.getV_setV, if_neg (List.ne_of_not_mem_cons hy)]

theorem setV_frame (b : Byte) :
    SameRegsExcept [x] s (s.setV x b) ∧ s.setV x b = { s with v := (s.setV x b).v } ∧ SameMemory s (s.setV x b) :=
  ⟨sameRegsExcept_setV s x b, rfl, fun _ => rfl⟩

/-! ### A flag and a result (R97): the flag stays in `VF` unless the result goes there too -/

theorem getV_setFlagResult_self (f r : Byte) : (s.setFlagResult x f r).getV x = r := getV_setV_self _ x r

theorem getV_setFlagResult_flag {x : Nibble} (f r : Byte) (hx : x ≠ 15#4) : (s.setFlagResult x f r).getV 15#4 = f := by
  rw [State.getV_setFlagResult, if_neg hx.symm, if_pos (show 15#4 = vF from rfl)]

theorem sameRegsExcept_setFlagResult (f r : Byte) : SameRegsExcept [x, 15#4] s (s.setFlagResult x f r) := by
  intro y hy
  obtain ⟨hx, hflag⟩ : y ≠ x ∧ y ≠ vF := by simpa [vF] using hy
  rw [State.getV_setFlagResult, if_neg hx, if_neg hflag]

theorem setFlagResult_frame (f r : Byte) :
    SameRegsExcept [x, 15#4] s (s.setFlagResult x f r) ∧
    s.setFlagResult x f r = { s with v := (s.setFlagResult x f r).v } ∧ SameMemory s (s.setFlagResult x f r) :=
  ⟨sameRegsExcept_setFlagResult s x f r, rfl, fun _ => rfl⟩

end

/-! ### The difference of two bytes (00_scope.md R18) -/

theorem toNat_sub_eq_int_emod (a b : Byte) : ((a - b).toNat : Int) = ((a.toNat : Int) - b.toNat) % 256 := by
  have ha := a.isLt
  have hb := b.isLt
  rw [BitVec.toNat_sub]
  omega

/-- Both subtractions write a difference and its borrow. -/
theorem setFlagResult_borrow_sub (s : State) (x : Nibble) (a b : Byte) :
    (((s.setFlagResult x (borrowFlag a b) (a - b)).getV x).toNat : Int) = ((a.toNat : Int) - b.toNat) % 256 ∧
    (x ≠ 15#4 → (s.setFlagResult x (borrowFlag a b) (a - b)).getV 15#4 = if a.toNat < b.toNat then 1 else 0) := by
  refine ⟨?_, fun hx => ?_⟩
  · rw [getV_setFlagResult_self, toNat_sub_eq_int_emod]
  · rw [getV_setFlagResult_flag s _ _ hx, borrowFlag_eq]

/-! ### The statements -/

/-- Settles O28: each is a write to its destination, and a sum of two bytes is the sum modulo 256. -/
theorem loadsAndAddConstWriteTheDestinationOnly : Obligations.LoadsAndAddConstWriteTheDestinationOnly := by
  refine ⟨fun _ => decode_loadConst, fun _ => decode_addConst, fun _ => decode_copy,
    fun x nn s => ⟨_, exec_loadConst s x nn, getV_setV_self s x _, setV_frame s x _⟩,
    fun x nn s => ⟨_, exec_addConst s x nn, ?sum, setV_frame s x _⟩,
    fun x y s => ⟨_, exec_copy s x y, getV_setV_self s x _, setV_frame s x _⟩⟩
  case sum => rw [getV_setV_self, BitVec.toNat_add]

/-- Settles O29: each is a write of its result to its destination. -/
theorem bitwiseOperationsWriteTheDestinationOnly : Obligations.BitwiseOperationsWriteTheDestinationOnly :=
  ⟨fun _ => decode_orReg, fun _ => decode_andReg, fun _ => decode_xorReg,
    fun x y s => ⟨_, exec_orReg s x y, getV_setV_self s x _, setV_frame s x _⟩,
    fun x y s => ⟨_, exec_andReg s x y, getV_setV_self s x _, setV_frame s x _⟩,
    fun x y s => ⟨_, exec_xorReg s x y, getV_setV_self s x _, setV_frame s x _⟩⟩

/-- Settles O30: the sum is written after the carry, so it is what a destination `VF` keeps. -/
theorem addRegWritesSumAndCarry : Obligations.AddRegWritesSumAndCarry := by
  refine ⟨fun _ => decode_addReg, fun x y s => ⟨_, exec_addReg s x y, ?sum, fun hx => ?carry, setFlagResult_frame s x _ _⟩⟩
  case sum => rw [getV_setFlagResult_self, BitVec.toNat_add]
  case carry => rw [getV_setFlagResult_flag s _ _ hx, carryFlag_eq]

/-- Settles O31: the two subtractions write the difference and the borrow of `V[X]`, `V[Y]` in one order and the other. -/
theorem subtractionsWriteDifferenceAndBorrow : Obligations.SubtractionsWriteDifferenceAndBorrow := by
  refine ⟨fun _ => decode_subReg, fun _ => decode_subRegReverse, fun x y s => ?sub, fun x y s => ?reverse⟩
  case sub =>
    obtain ⟨hdiff, hborrow⟩ := setFlagResult_borrow_sub s x (s.getV x) (s.getV y)
    exact ⟨_, exec_subReg s x y, hdiff, hborrow, setFlagResult_frame s x _ _⟩
  case reverse =>
    obtain ⟨hdiff, hborrow⟩ := setFlagResult_borrow_sub s x (s.getV y) (s.getV x)
    exact ⟨_, exec_subRegReverse s x y, hdiff, hborrow, setFlagResult_frame s x _ _⟩

end Sys2Proof
end

section
/-! SUPPORT. The two outcomes of an access at `I` (20_memory.md R53), and what a run of byte writes and a run of register
writes leave where they write and elsewhere (R50); with them the statements about load-index, add-to-index and the three
memory transfers (43_index_memory.md R110, R112, R114 to R116). -/

namespace Sys2Proof

open Sys2Proof.Machine Sys2Proof.Safety

section
variable (s : State)

/-! ### An access at `I` by its last address (R53, 60_exceptions.md R126, R128) -/

theorem accessAtI_eq_effect {n : Nat} (effect : State) (h : s.i.toNat + n ≤ 0xFFF) :
    s.accessAtI (n + 1) effect = effect :=
  s.accessAtI_inRange effect (.inr (Nat.succ_le_succ h))

theorem accessAtI_eq_faultedAtI {n : Nat} (effect : State) (h : s.i.toNat + n > 0xFFF) :
    s.accessAtI (n + 1) effect = faultedAtI s := by
  have hbad := outOfRange_some_of (a := s.i) n.succ_ne_zero (Nat.succ_lt_succ h)
  rw [State.accessAtI, hbad]
  rfl

/-! ### A run of byte writes -/

theorem readByte_writeBytes_of_getElem? {bs : List Byte} {k : Nat} {b : Byte} (a : Nat) (h : bs[k]? = some b) :
    (s.writeBytes a bs).readByte (a + k) = b := by
  rw [State.readByte_writeBytes, if_pos (Nat.le_add_right a k), Nat.add_sub_cancel_left, List.getD_eq_getElem?_getD, h,
    Option.getD_some]

theorem sameMemoryOutside_writeBytes (a : Nat) (bs : List Byte) :
    SameMemoryOutside a bs.length s (s.writeBytes a bs) := by
  intro c hc
  rw [State.readByte_writeBytes]
  obtain hbelow | habove := hc
  · rw [if_neg hbelow.not_ge]
  · rw [List.getD_eq_default _ _ (Nat.le_sub_of_add_le' habove), ite_self]

/-! ### The first registers, read and written in a run -/

theorem getElem?_getRegs_toNat {n : Nat} {z : Nibble} (h : z.toNat < n) : (s.getRegs n)[z.toNat]? = some (s.getV z) := by
  rw [State.getElem?_getRegs, if_pos h, BitVec.ofNat_toNat, BitVec.setWidth_eq]

theorem getV_setRegs_readBytes {n : Nat} (a : Nat) (h : n ≤ 16) (z : Nibble) :
    (s.setRegs 0 (s.readBytes a n)).getV z = if z.toNat < n then s.readByte (a + z.toNat) else s.getV z := by
  have hlength : 0 + (s.readBytes a n).length ≤ 16 := by rwa [Nat.zero_add, State.length_readBytes]
  rw [State.getV_setRegs _ _ _ hlength, if_pos z.toNat.zero_le, Nat.sub_zero, List.getD_eq_getElem?_getD,
    State.getElem?_readBytes]
  split <;> rfl

end

/-! ### The statements -/

/-- Settles O38: the three digits are a run of three byte writes, and the range check covers its last address. -/
theorem storeBcdWritesTheThreeDigits : Obligations.StoreBcdWritesTheThreeDigits := by
  refine ⟨fun _ => decode_storeBcd, fun x s hrange => ?stored, fun x s habove => ?faulted⟩
  case stored =>
    obtain ⟨hundreds, tens, units, hdigits, hhundreds, htens, hunits⟩ := bcdDigits_spec (s.getV x)
    have byteAt (k : Nat) {b : Byte} (hk : [hundreds, tens, units][k]? = some b) :
        ((s.writeBytes s.i.toNat [hundreds, tens, units]).readByte (s.i.toNat + k)).toNat = b.toNat :=
      congrArg BitVec.toNat (readByte_writeBytes_of_getElem? s s.i.toNat hk)
    refine ⟨s.writeBytes s.i.toNat [hundreds, tens, units], ?_, (byteAt 0 rfl).trans hhundreds,
      (byteAt 1 rfl).trans htens, (byteAt 2 rfl).trans hunits, sameMemoryOutside_writeBytes s _ [hundreds, tens, units],
      State.writeBytes_eq s _ _⟩
    rw [exec_storeBcd, accessAtI_eq_effect s _ hrange, hdigits]
  case faulted => rw [exec_storeBcd, accessAtI_eq_faultedAtI s _ habove]

/-- Settles O39: the bytes written are the first `X + 1` registers. -/
theorem storeRegistersWritesTheRegisters : Obligations.StoreRegistersWritesTheRegisters := by
  refine ⟨fun _ => decode_storeRegisters, fun x s hrange => ?stored, fun x s habove => ?faulted⟩
  case stored =>
    refine ⟨s.writeBytes s.i.toNat (s.getRegs (x.toNat + 1)), ?_, fun z hz => ?_, ?_, State.writeBytes_eq s _ _⟩
    · rw [exec_storeRegisters, accessAtI_eq_effect s _ hrange]
    · exact readByte_writeBytes_of_getElem? s _ (getElem?_getRegs_toNat s (Nat.lt_succ_of_le hz))
    · simpa using sameMemoryOutside_writeBytes s s.i.toNat (s.getRegs (x.toNat + 1))
  case faulted => rw [exec_storeRegisters, accessAtI_eq_faultedAtI s _ habove]

/-- Settles O40: the registers written are the first `X + 1`, of which there are at most sixteen. -/
theorem loadRegistersReadsTheRegisters : Obligations.LoadRegistersReadsTheRegisters := by
  refine ⟨fun _ => decode_loadRegisters, fun x s hrange => ?loaded, fun x s habove => ?faulted⟩
  case loaded =>
    have hregs := getV_setRegs_readBytes s s.i.toNat x.isLt
    refine ⟨s.setRegs 0 (s.readBytes s.i.toNat (x.toNat + 1)), ?_, fun z hz => ?_, fun z hz => ?_, State.setRegs_eq s _ _,
      State.readByte_congr (State.setRegs_mem s _ _) (State.setRegs_params s _ _)⟩
    · rw [exec_loadRegisters, accessAtI_eq_effect s _ hrange]
    · rw [hregs, if_pos (Nat.lt_succ_of_le hz)]
    · rw [hregs, if_neg (Nat.not_lt.mpr hz)]
  case faulted => rw [exec_loadRegisters, accessAtI_eq_faultedAtI s _ habove]

/-- Settles O36: each is one write to `I`, of the operand and of the reduced sum. -/
theorem loadIndexAndAddToIndexWriteIndex : Obligations.LoadIndexAndAddToIndexWriteIndex :=
  ⟨fun _ => decode_loadIndex, fun _ => decode_addToIndex,
    fun nnn s => ⟨_, exec_loadIndex s nnn, toNat_zext16 nnn, rfl⟩,
    fun x s => ⟨_, exec_addToIndex s x, toNat_indexSum s.i (s.getV x), rfl⟩⟩

end Sys2Proof
end

section
/-! The statement about the timer instructions (44_io_timer.md R122 to R124). -/

namespace Sys2Proof

open Sys2Proof.Machine

/-- Settles O47: reading `DT` is a write to one register, and setting a timer is a write to that timer. -/
theorem timerInstructionsMoveTheTimers : Obligations.TimerInstructionsMoveTheTimers :=
  ⟨fun _ => decode_readDelayTimer, fun _ => decode_setDelayTimer, fun _ => decode_setSoundTimer,
    fun x s => ⟨⟨_, exec_readDelayTimer s x, getV_setV_self s x _, setV_frame s x _⟩, exec_setDelayTimer s x,
      exec_setSoundTimer s x⟩⟩

end Sys2Proof
end

section
/-! SUPPORT. A word is handled exactly when its identifier is one of the 34 of the opcode map, and the identifier as a number;
with them the statements about decoding and encoding (30_encoding.md R64 to R71). -/

namespace Sys2Proof

/-! ### The opcode map by identifier (R64, R69) -/

theorem handled_iff_ident_mem (w : Word16) : handled w = true ↔ ident w ∈ opcodeMap.map OpRow.ident := by
  simp only [handled, List.any_eq_true, List.mem_map]
  exact exists_congr fun r => and_congr_right fun hr => (selects_iff_ident hr w).trans eq_comm

theorem wellFormed_decode (w : Word16) : (decode w).wellFormed = true := by
  cases hw : handled w with
  | false => rw [decode_unhandled hw, Instr.wellFormed, hw]; rfl
  | true =>
    rw [handled_iff_ident_mem] at hw
    unfold decode
    split
    case h_35 => simp_all [opcodeMap, flowRows, skipRows, loadRows, aluRows, keyRows, systemRows]
    all_goals rfl

/-- The decoder calls unhandled exactly the words no row selects (R70). -/
theorem decode_eq_unhandled_iff (w : Word16) : decode w = .unhandled w ↔ handled w = false := by
  refine ⟨fun h => ?_, decode_unhandled⟩
  have hwf := wellFormed_decode w
  rw [h] at hwf
  simpa [Instr.wellFormed] using hwf

theorem opcodeMap_ident_injOn {r r' : OpRow} (hr : r ∈ opcodeMap) (hr' : r' ∈ opcodeMap) (h : r.ident = r'.ident) :
    r = r' :=
  List.inj_on_of_nodup_map (f := OpRow.ident) (by decide) hr hr' h

/-! ### The round trip (R62, R69) -/

theorem decode_encode (i : Instr) (h : i.wellFormed = true) : decode (encode i) = i := by
  cases i with
  | clearScreen => exact Laws.RoundTrip.clearScreen h
  | ret => exact Laws.RoundTrip.ret h
  | jump nnn => exact Laws.RoundTrip.jump nnn h
  | call nnn => exact Laws.RoundTrip.call nnn h
  | skipEqConst x nn => exact Laws.RoundTrip.skipEqConst x nn h
  | skipNeqConst x nn => exact Laws.RoundTrip.skipNeqConst x nn h
  | skipEqReg x y => exact Laws.RoundTrip.skipEqReg x y h
  | loadConst x nn => exact Laws.RoundTrip.loadConst x nn h
  | addConst x nn => exact Laws.RoundTrip.addConst x nn h
  | copy x y => exact Laws.RoundTrip.copy x y h
  | orReg x y => exact Laws.RoundTrip.orReg x y h
  | andReg x y => exact Laws.RoundTrip.andReg x y h
  | xorReg x y => exact Laws.RoundTrip.xorReg x y h
  | addReg x y => exact Laws.RoundTrip.addReg x y h
  | subReg x y => exact Laws.RoundTrip.subReg x y h
  | shiftRight x y => exact Laws.RoundTrip.shiftRight x y h
  | subRegReverse x y => exact Laws.RoundTrip.subRegReverse x y h
  | shiftLeft x y => exact Laws.RoundTrip.shiftLeft x y h
  | skipNeqReg x y => exact Laws.RoundTrip.skipNeqReg x y h
  | loadIndex nnn => exact Laws.RoundTrip.loadIndex nnn h
  | jumpOffset nnn => exact Laws.RoundTrip.jumpOffset nnn h
  | randomAnd x nn => exact Laws.RoundTrip.randomAnd x nn h
  | draw x y n => exact Laws.RoundTrip.draw x y n h
  | skipKeyPressed x => exact Laws.RoundTrip.skipKeyPressed x h
  | skipKeyNotPressed x => exact Laws.RoundTrip.skipKeyNotPressed x h
  | readDelayTimer x => exact Laws.RoundTrip.readDelayTimer x h
  | blockOnKey x => exact Laws.RoundTrip.blockOnKey x h
  | setDelayTimer x => exact Laws.RoundTrip.setDelayTimer x h
  | setSoundTimer x => exact Laws.RoundTrip.setSoundTimer x h
  | addToIndex x => exact Laws.RoundTrip.addToIndex x h
  | loadFontSprite x => exact Laws.RoundTrip.loadFontSprite x h
  | storeBcd x => exact Laws.RoundTrip.storeBcd x h
  | storeRegisters x => exact Laws.RoundTrip.storeRegisters x h
  | loadRegisters x => exact Laws.RoundTrip.loadRegisters x h
  | unhandled w => exact Laws.RoundTrip.unhandled w h

/-- A word is its two bytes side by side (R60). -/
theorem append_bytes_of_word (w : Word16) : (w.extractLsb' 8 8 ++ w.extractLsb' 0 8 : Word16) = w := by
  apply BitVec.eq_of_toNat_eq
  rw [toNat_append_bytes, BitVec.extractLsb'_toNat, BitVec.extractLsb'_toNat, Nat.shiftRight_eq_div_pow]
  omega

theorem decodeBytes_encodeBytes_append (i : Instr) (rest : List Byte) :
    decodeBytes (encodeBytes i ++ rest) = .ok (decode (encode i), rest) := by
  simp only [encodeBytes, List.cons_append, List.nil_append, decodeBytes, append_bytes_of_word]

/-! ### The unhandled words by number (R70) -/

theorem fieldN_toNat (w : Word16) : (fieldN w).toNat = w.toNat % 16 := by
  rw [fieldN, BitVec.extractLsb'_toNat, Nat.shiftRight_zero]

theorem toNat_formXYN (t x y n : Nibble) :
    (formXYN t x y n).toNat = t.toNat * 4096 + x.toNat * 256 + y.toNat * 16 + n.toNat := by
  have hcat (m : Nat) (d : Nibble) : m <<< 4 ||| d.toNat = m * 16 + d.toNat := by
    rw [← Nat.shiftLeft_add_eq_or_of_lt d.isLt, Nat.shiftLeft_eq]
  simp only [formXYN, BitVec.toNat_append, hcat]
  omega

/-- The identifier on unbounded integers, one case for each mask of R64. -/
theorem toNat_ident (w : Word16) :
    (ident w).toNat = if w.toNat / 4096 = 0x8 then 0x8000 + w.toNat % 16
      else if w.toNat / 4096 = 0xE ∨ w.toNat / 4096 = 0xF ∨ w.toNat / 4096 = 0x0 then
        w.toNat / 4096 * 4096 + w.toNat % 256
      else w.toNat / 4096 * 4096 := by
  simp only [ident_eq, topNibble_eq_iff, apply_ite BitVec.toNat, toNat_formXYN, topNibble_toNat, fieldY_toNat,
    fieldN_toNat, BitVec.toNat_ofNat]
  split_ifs <;> omega

/-- The identifiers of the opcode map as numbers. -/
theorem ident_mem_opcodeMap_iff (w : Word16) : ident w ∈ opcodeMap.map OpRow.ident ↔
    (ident w).toNat ∈ [0x00E0, 0x00EE, 0x1000, 0x2000, 0x3000, 0x4000, 0x5000, 0x9000, 0x6000, 0x7000, 0xA000, 0xB000,
      0xC000, 0xD000, 0x8000, 0x8001, 0x8002, 0x8003, 0x8004, 0x8005, 0x8006, 0x8007, 0x800E, 0xE09E, 0xE0A1, 0xF007,
      0xF00A, 0xF015, 0xF018, 0xF01E, 0xF029, 0xF033, 0xF055, 0xF065] :=
  (List.mem_map_of_injective BitVec.toNat_injective).symm

/-! ### The statements -/

/-- Settles O2: the instruction's word decodes to it, and its two bytes are that word. -/
theorem decodeOfEncodeIsTheInstruction : Obligations.DecodeOfEncodeIsTheInstruction := by
  intro i hwf
  have hround := decode_encode i hwf
  exact ⟨hround, fun rest => by rw [decodeBytes_encodeBytes_append, hround]⟩

/-- Settles O3: what a word decodes to is well-formed, so the round trip applies to it. -/
theorem everyWordDecodesToAWellFormedInstruction : Obligations.EveryWordDecodesToAWellFormedInstruction := fun w =>
  ⟨wellFormed_decode w, decode_encode (decode w) (wellFormed_decode w)⟩

/-- Settles O6: two rows that select one word have its identifier, and no two rows share an identifier. -/
theorem opcodeMapSelectsByIdentifier : Obligations.OpcodeMapSelectsByIdentifier := by
  refine ⟨rfl, fun r hr w => selects_iff_ident hr w, fun r hr r' hr' w hw hw' => ?_⟩
  exact opcodeMap_ident_injOn hr hr' (((selects_iff_ident hr w).mp hw).symm.trans ((selects_iff_ident hr' w).mp hw'))

/-- Settles O7: the masks of R69 clear the nibble that the decoder ignores. -/
theorem ignoredBitsDoNotChangeTheInstruction : Obligations.IgnoredBitsDoNotChangeTheInstruction := by
  have hform : ∀ z : Nibble, z.setWidth 16 <<< 8 ||| 0x00E0#16 = formXYN 0x0#4 z 0xE#4 0x0#4 ∧
      z.setWidth 16 <<< 8 ||| 0x00EE#16 = formXYN 0x0#4 z 0xE#4 0xE#4 := by decide
  refine ⟨fun z => ⟨decode_clearScreen ?_, decode_ret ?_⟩, fun x y n => ⟨?_, ?_⟩⟩
  · rw [(hform z).1, and_F0FF, topNibble_formXYN, fieldY_formXYN, fieldN_formXYN]
    rfl
  · rw [(hform z).2, and_F0FF, topNibble_formXYN, fieldY_formXYN, fieldN_formXYN]
    rfl
  · rw [decode_skipEqReg, fieldX_formXYN, fieldY_formXYN]
    rw [and_F000, topNibble_formXYN]
    rfl
  · rw [decode_skipNeqReg, fieldX_formXYN, fieldY_formXYN]
    rw [and_F000, topNibble_formXYN]
    rfl

/-- Settles O8: the row of an identifier is found by its top nibble, which leaves the low nibble (group 8) or the low byte
(groups 0, E and F) to compare. -/
theorem unhandledWordsAreTheListedOnes : Obligations.UnhandledWordsAreTheListedOnes := by
  intro w
  rw [decode_eq_unhandled_iff, ← Bool.not_eq_true, handled_iff_ident_mem, ident_mem_opcodeMap_iff, toNat_ident]
  have htop : w.toNat / 4096 < 16 := Nat.div_lt_of_lt_mul w.isLt
  have hlow : w.toNat % 16 < 16 := Nat.mod_lt _ (by decide)
  have hlowByte : w.toNat % 256 < 256 := Nat.mod_lt _ (by decide)
  generalize w.toNat / 4096 = top, w.toNat % 16 = low, w.toNat % 256 = lowByte at *
  by_cases h8 : top = 0x8
  · subst h8
    interval_cases low <;> simp
  by_cases hEF0 : top = 0xE ∨ top = 0xF ∨ top = 0x0
  · obtain rfl | rfl | rfl := hEF0 <;> simp <;> omega
  · interval_cases top <;> simp at h8 hEF0 ⊢

/-- Settles O1: the fifteen words are literals, so each side evaluates. -/
theorem sampleWordsDecodeAsWritten : Obligations.SampleWordsDecodeAsWritten := by
  unfold Obligations.SampleWordsDecodeAsWritten
  decide

end Sys2Proof
end

section
/-! SUPPORT. All that the execute step of an instruction can do, said once: the fault the cause table gives, or one of the
effects of 41_control.md to 44_io_timer.md; with it the statements about faults (60_exceptions.md R126, 40_cycle.md R81) and
about the registers written (10_state.md R28). -/

namespace Sys2Proof

open Sys2Proof.Machine Sys2Proof.Safety

/-! ### The cause table by the range check (20_memory.md R53, 60_exceptions.md R126) -/

/-- The row of the cause table for an access of `n` bytes at `I`. -/
def accessCause (s : State) (n : Nat) : Option (FaultKind × Option Nat) :=
  (outOfRange s.i n).map fun bad => (.memoryOutOfRange, some bad.toNat)

section
variable (s : State)

theorem accessCause_eq (n : Nat) : accessCause s n =
    if n ≠ 0 ∧ memSize < s.i.toNat + n then some (.memoryOutOfRange, some (max s.i.toNat memSize)) else none := by
  unfold accessCause
  cases h : outOfRange s.i n with
  | none =>
    have hrange := outOfRange_eq_none.mp h
    rw [if_neg (by omega)]
    rfl
  | some bad =>
    obtain ⟨hn, habove, hbad⟩ := outOfRange_eq_some h
    rw [if_pos ⟨hn, habove⟩, ← hbad]
    rfl

theorem faultCause_storeBcd (x : Nibble) : faultCause (.storeBcd x) s = accessCause s 3 := by
  rw [accessCause_eq, memSize]
  exact if_congr (by omega) rfl rfl

theorem faultCause_storeRegisters (x : Nibble) : faultCause (.storeRegisters x) s = accessCause s (x.toNat + 1) := by
  rw [accessCause_eq, memSize]
  exact if_congr (by omega) rfl rfl

theorem faultCause_loadRegisters (x : Nibble) : faultCause (.loadRegisters x) s = accessCause s (x.toNat + 1) :=
  faultCause_storeRegisters s x

theorem faultCause_draw (x y n : Nibble) : faultCause (.draw x y n) s = accessCause s n.toNat := by
  rw [accessCause_eq, memSize]
  exact if_congr (by omega) rfl rfl

end

/-! ### What an execute step can do -/

/-- The effect of an instruction that does not fault. Registers written are among those R28 lists for the instruction. -/
inductive ExecEffect (s : State) : Instr → State → Prop
  | registers {i : Instr} (v : Vector Byte 16)
      (hregs : ∀ z, writesV i z = false → State.getV { s with v := v } z = s.getV z) : ExecEffect s i { s with v := v }
  | clearScreen : ExecEffect s .clearScreen (s.callPort .clear)
  | ret {top : Word16} {rest : List Word16} (hstack : s.stack = top :: rest) :
      ExecEffect s .ret { s with stack := rest, pc := top }
  | jump (nnn : Addr12) : ExecEffect s (.jump nnn) (s.setPc (zext16 nnn))
  | call (nnn : Addr12) (hroom : s.stack.length < s.params.stackDepth.entries) :
      ExecEffect s (.call nnn) { s with stack := s.pc :: s.stack, pc := zext16 nnn }
  | skip {i : Instr} (c : Bool) (hi : writesSkip i = true) : ExecEffect s i (s.setSkip c)
  | keySkip {i : Instr} {x : Nibble} (k : Byte) (c : Bool) (hi : i = .skipKeyPressed x ∨ i = .skipKeyNotPressed x) :
      ExecEffect s i ((s.callPort (.keyPressed k)).setSkip c)
  | loadIndex (nnn : Addr12) : ExecEffect s (.loadIndex nnn) (s.setI (zext16 nnn))
  | jumpOffset (nnn : Addr12) : ExecEffect s (.jumpOffset nnn) (s.setI (zext16 nnn + byte16 (s.getV 0)))
  | addToIndex (x : Nibble) : ExecEffect s (.addToIndex x) (s.setI (indexSum s.i (s.getV x)))
  | loadFontSprite (x : Nibble) : ExecEffect s (.loadFontSprite x) (s.setI (glyphAddr s.params.fontBase.val (s.getV x)))
  | storeBcd (x : Nibble) (bs : List Byte) (hlength : bs.length = 3) (hrange : s.i.toNat + bs.length ≤ memSize) :
      ExecEffect s (.storeBcd x) { s with mem := (s.writeBytes s.i.toNat bs).mem }
  | storeRegisters (x : Nibble) (bs : List Byte) (hlength : bs.length = x.toNat + 1)
      (hrange : s.i.toNat + bs.length ≤ memSize) :
      ExecEffect s (.storeRegisters x) { s with mem := (s.writeBytes s.i.toNat bs).mem }
  | draw (x y n : Nibble) (bs : List Byte) (b : Byte) :
      ExecEffect s (.draw x y n) ((s.callPort (.draw (s.getV x) (s.getV y) n bs)).setV vF b)
  | randomAnd (x : Nibble) (nn b : Byte) : ExecEffect s (.randomAnd x nn) ((s.callPort .rand).setV x b)
  | blockOnKey (x : Nibble) : ExecEffect s (.blockOnKey x) (s.setWait (some x))
  | setDelayTimer (x : Nibble) : ExecEffect s (.setDelayTimer x) (s.setDt (s.getV x))
  | setSoundTimer (x : Nibble) : ExecEffect s (.setSoundTimer x) (s.setSt (s.getV x))

/-- The outcome of an execute step by the cause table: the fault it gives, or an effect where it gives none. -/
inductive ExecOutcome (s : State) (i : Instr) : State → Prop
  | faulted (kind : FaultKind) (addr : Option Word16) (hcause : faultCause i s = some (kind, addr.map BitVec.toNat)) :
      ExecOutcome s i (s.raiseExec kind addr)
  | done {t : State} (hcause : faultCause i s = none) (heffect : ExecEffect s i t) : ExecOutcome s i t

section
variable {s t : State} {i : Instr}

/-! ### One lemma for each shared shape of effect -/

theorem execOutcome_accessAtI {n : Nat} {e : State} (hcause : faultCause i s = accessCause s n)
    (heffect : n = 0 ∨ s.i.toNat + n ≤ memSize → ExecEffect s i e) : ExecOutcome s i (s.accessAtI n e) := by
  obtain ⟨hrange, heq⟩ | ⟨bad, hbad, heq⟩ := s.accessAtI_cases n e
  · rw [heq]
    exact .done (by rw [hcause, accessCause, hrange]; rfl) (heffect (outOfRange_eq_none.mp hrange))
  · rw [heq]
    exact .faulted _ _ (by rw [hcause, accessCause, hbad]; rfl)

theorem execEffect_setV {x : Nibble} (b : Byte) (hi : ∀ z, writesV i z = (z == x)) : ExecEffect s i (s.setV x b) :=
  .registers _ fun z hz => sameRegsExcept_setV s x b z (by simpa [hi] using hz)

theorem execEffect_setFlagResult {x : Nibble} (f r : Byte) (hi : ∀ z, writesV i z = (z == x || z == 15#4)) :
    ExecEffect s i (s.setFlagResult x f r) :=
  .registers _ fun z hz => sameRegsExcept_setFlagResult s x f r z (by simpa [hi] using hz)

theorem execEffect_loadRegisters (x : Nibble) :
    ExecEffect s (.loadRegisters x) (s.setRegs 0 (s.readBytes s.i.toNat (x.toNat + 1))) := by
  rw [s.setRegs_eq]
  refine .registers _ fun z hz => ?_
  have hz : ¬ z.toNat ≤ x.toNat := by simpa [writesV] using hz
  rw [← s.setRegs_eq, getV_setRegs_readBytes s _ x.isLt, if_neg (by omega)]

/-- Every instruction does what the cause table and its rule say. -/
theorem exec_outcome (h : exec i s = .next t) : ExecOutcome s i t := by
  cases i with
  | clearScreen => cases h; exact .done rfl .clearScreen
  | ret =>
    rw [exec_ret] at h
    cases h
    obtain ⟨top, rest, hstack, heq⟩ | ⟨hempty, heq⟩ := s.popJump_cases <;> rw [heq]
    · exact .done (if_neg (by simp [hstack])) (.ret hstack)
    · exact .faulted _ _ (if_pos hempty)
  | jump nnn => cases h; exact .done rfl (.jump nnn)
  | call nnn =>
    rw [exec_call] at h
    cases h
    obtain ⟨hroom, heq⟩ | ⟨hfull, heq⟩ := s.pushJump_cases s.pc (zext16 nnn) <;> rw [heq]
    · exact .done (if_neg hroom.not_ge) (.call nnn hroom)
    · exact .faulted _ _ (if_pos hfull)
  | skipEqConst _ _ | skipNeqConst _ _ | skipEqReg _ _ | skipNeqReg _ _ => cases h; exact .done rfl (.skip _ rfl)
  | skipKeyPressed x => cases h; exact .done rfl (.keySkip _ _ (.inl rfl))
  | skipKeyNotPressed x => cases h; exact .done rfl (.keySkip _ _ (.inr rfl))
  | loadConst _ _ | addConst _ _ | copy _ _ | orReg _ _ | andReg _ _ | xorReg _ _ | readDelayTimer _ =>
    cases h; exact .done rfl (execEffect_setV _ fun _ => rfl)
  | addReg _ _ | subReg _ _ | subRegReverse _ _ | shiftRight _ _ | shiftLeft _ _ =>
    cases h; exact .done rfl (execEffect_setFlagResult _ _ fun _ => rfl)
  | loadIndex nnn => cases h; exact .done rfl (.loadIndex nnn)
  | jumpOffset nnn => cases h; exact .done rfl (.jumpOffset nnn)
  | addToIndex x => cases h; exact .done rfl (.addToIndex x)
  | loadFontSprite x => cases h; exact .done rfl (.loadFontSprite x)
  | randomAnd x nn => cases h; exact .done rfl (.randomAnd x nn _)
  | blockOnKey x => cases h; exact .done rfl (.blockOnKey x)
  | setDelayTimer x => cases h; exact .done rfl (.setDelayTimer x)
  | setSoundTimer x => cases h; exact .done rfl (.setSoundTimer x)
  | unhandled w => cases h; exact .done rfl (.registers s.v fun _ _ => rfl)
  | draw x y n =>
    rw [exec_draw] at h
    cases h
    exact execOutcome_accessAtI (faultCause_draw s x y n) fun _ => .draw x y n _ _
  | storeBcd x =>
    rw [exec_storeBcd] at h
    cases h
    refine execOutcome_accessAtI (faultCause_storeBcd s x) fun hrange => ?_
    rw [s.writeBytes_eq]
    exact .storeBcd x _ rfl (hrange.resolve_left (by decide))
  | storeRegisters x =>
    rw [exec_storeRegisters] at h
    cases h
    refine execOutcome_accessAtI (faultCause_storeRegisters s x) fun hrange => ?_
    rw [s.writeBytes_eq]
    exact .storeRegisters x _ (s.length_getRegs _) (by rw [s.length_getRegs]; omega)
  | loadRegisters x =>
    rw [exec_loadRegisters] at h
    cases h
    exact execOutcome_accessAtI (faultCause_loadRegisters s x) fun _ => execEffect_loadRegisters x

/-! ### What writes each part of the state -/

theorem exec_params (h : exec i s = .next t) : t.params = s.params := by
  cases exec_outcome h with
  | faulted => rfl
  | done _ heffect => cases heffect <;> rfl

theorem exec_pc (h : exec i s = .next t) (hcall : ∀ nnn, i ≠ .jump nnn ∧ i ≠ .call nnn) (hret : i ≠ .ret) :
    t.pc = s.pc := by
  cases exec_outcome h with
  | faulted => rfl
  | done _ heffect =>
    cases heffect with
    | jump nnn => exact absurd rfl (hcall nnn).1
    | call nnn => exact absurd rfl (hcall nnn).2
    | ret => exact absurd rfl hret
    | _ => rfl

theorem exec_index (h : exec i s = .next t) : t.i = s.i ∨
    (∃ nnn, i = .loadIndex nnn ∨ i = .jumpOffset nnn) ∨ ∃ x, i = .addToIndex x ∨ i = .loadFontSprite x := by
  cases exec_outcome h with
  | faulted => exact .inl rfl
  | done _ heffect =>
    cases heffect with
    | loadIndex nnn => exact .inr (.inl ⟨nnn, .inl rfl⟩)
    | jumpOffset nnn => exact .inr (.inl ⟨nnn, .inr rfl⟩)
    | addToIndex x => exact .inr (.inr ⟨x, .inl rfl⟩)
    | loadFontSprite x => exact .inr (.inr ⟨x, .inr rfl⟩)
    | _ => exact .inl rfl

theorem exec_skip (h : exec i s = .next t) : t.skip = s.skip ∨ writesSkip i = true := by
  cases exec_outcome h with
  | faulted => exact .inl rfl
  | done _ heffect =>
    cases heffect with
    | skip _ hi => exact .inr hi
    | keySkip _ _ hi => obtain rfl | rfl := hi <;> exact .inr rfl
    | _ => exact .inl rfl

theorem exec_stack (h : exec i s = .next t) : t.stack = s.stack ∨
    (∃ nnn, i = .call nnn ∧ t.stack = s.pc :: s.stack ∧ s.stack.length < s.params.stackDepth.entries) ∨
    (i = .ret ∧ s.stack = t.pc :: t.stack) := by
  cases exec_outcome h with
  | faulted => exact .inl rfl
  | done _ heffect =>
    cases heffect with
    | call nnn hroom => exact .inr (.inl ⟨nnn, rfl, rfl, hroom⟩)
    | ret hstack => exact .inr (.inr ⟨rfl, hstack⟩)
    | _ => exact .inl rfl

theorem exec_dt (h : exec i s = .next t) : t.dt = s.dt ∨ ∃ x, i = .setDelayTimer x := by
  cases exec_outcome h with
  | faulted => exact .inl rfl
  | done _ heffect =>
    cases heffect with
    | setDelayTimer x => exact .inr ⟨x, rfl⟩
    | _ => exact .inl rfl

theorem exec_st (h : exec i s = .next t) : t.st = s.st ∨ ∃ x, i = .setSoundTimer x := by
  cases exec_outcome h with
  | faulted => exact .inl rfl
  | done _ heffect =>
    cases heffect with
    | setSoundTimer x => exact .inr ⟨x, rfl⟩
    | _ => exact .inl rfl

theorem sameMemoryOutside_store (s : State) (a : Nat) (bs : List Byte) :
    SameMemoryOutside a bs.length s { s with mem := (s.writeBytes a bs).mem } := by
  rw [← s.writeBytes_eq]
  exact sameMemoryOutside_writeBytes s a bs

/-- Only the two stores write memory, each in its own range from `I` on (20_memory.md R46). -/
theorem exec_memory (h : exec i s = .next t) : SameMemory s t ∨
    (∃ x, i = .storeBcd x ∧ SameMemoryOutside s.i.toNat 3 s t) ∨
    (∃ x, i = .storeRegisters x ∧ SameMemoryOutside s.i.toNat (x.toNat + 1) s t) := by
  cases exec_outcome h with
  | faulted => exact .inl fun _ => rfl
  | done _ heffect =>
    cases heffect with
    | storeBcd x bs hlength => exact .inr (.inl ⟨x, rfl, hlength ▸ sameMemoryOutside_store s _ bs⟩)
    | storeRegisters x bs hlength => exact .inr (.inr ⟨x, rfl, hlength ▸ sameMemoryOutside_store s _ bs⟩)
    | _ => exact .inl fun _ => rfl

theorem exec_wait (h : exec i s = .next t) : t.wait = s.wait ∨ ∃ x, i = .blockOnKey x ∧ t.wait = some x := by
  cases exec_outcome h with
  | faulted => exact .inl rfl
  | done _ heffect =>
    cases heffect with
    | blockOnKey x => exact .inr ⟨x, rfl, rfl⟩
    | _ => exact .inl rfl

/-- The instruction that makes a call on a port (60_exceptions.md R139). -/
def MakesCall (i : Instr) : PortCall → Prop
  | .clear => i = .clearScreen
  | .draw _ _ n _ => ∃ x y, i = .draw x y n
  | .keyPressed _ => ∃ x, i = .skipKeyPressed x ∨ i = .skipKeyNotPressed x
  | .rand => ∃ x nn, i = .randomAnd x nn

theorem exec_ports (h : exec i s = .next t) : t.ports = s.ports ∨ ∃ c, t.ports = c :: s.ports ∧ MakesCall i c := by
  cases exec_outcome h with
  | faulted => exact .inl rfl
  | done _ heffect =>
    cases heffect with
    | clearScreen => exact .inr ⟨_, rfl, rfl⟩
    | draw x y n => exact .inr ⟨_, rfl, x, y, rfl⟩
    | @keySkip _ x _ _ hi => exact .inr ⟨_, rfl, x, hi⟩
    | randomAnd x nn => exact .inr ⟨_, rfl, x, nn, rfl⟩
    | _ => exact .inl rfl

theorem ExecEffect.fault_eq (h : ExecEffect s i t) : t.fault = s.fault := by
  cases h <;> rfl

theorem exec_getV (h : exec i s = .next t) {z : Nibble} (hz : writesV i z = false) : t.getV z = s.getV z := by
  cases exec_outcome h with
  | faulted => rfl
  | done _ heffect =>
    cases heffect with
    | registers _ hregs => exact hregs z hz
    | draw => exact sameRegsExcept_setV s vF _ z (by simpa [writesV, vF] using hz)
    | randomAnd x => exact sameRegsExcept_setV s x _ z (by simpa [writesV] using hz)
    | _ => rfl

end

/-! ### The statements -/

/-- Settles O34: an effect writes no register that R28 does not list, and a fault writes none. -/
theorem registersAreWrittenOnlyAsListed : Obligations.RegistersAreWrittenOnlyAsListed := by
  intro i s z hz
  obtain ⟨t, ht⟩ := exec_next i s
  exact ⟨t, ht, exec_getV ht hz⟩

/-- Settles O50: a fault is the one the cause table gives, and an effect leaves the latch clear. -/
theorem faultsAreThoseOfTheCauseTable : Obligations.FaultsAreThoseOfTheCauseTable := by
  intro i s hclear
  obtain ⟨t, ht⟩ := exec_next i s
  refine ⟨t, ht, ?_⟩
  cases exec_outcome ht with
  | faulted kind addr hcause =>
    refine ⟨hcause.symm, fun r hr => ?_⟩
    cases hr
    rfl
  | done hcause heffect =>
    rw [heffect.fault_eq, hclear, hcause]
    exact ⟨rfl, fun r hr => nomatch hr⟩

/-- Settles O51: an outcome with the latch set is the state before with the latch set. -/
theorem faultingInstructionHasNoOtherEffect : Obligations.FaultingInstructionHasNoOtherEffect := by
  intro i s t r hclear ht hr
  cases exec_outcome ht with
  | faulted =>
    cases hr
    rfl
  | done _ heffect =>
    rw [heffect.fault_eq, hclear] at hr
    cases hr

end Sys2Proof
end

section
/-! SUPPORT. All that one step can do, said once over the eight ways an operation of the host can go (40_cycle.md R75 to R79,
60_exceptions.md R133, R136, 70_reset_and_hazards.md R148, R149); with it the statements about what each piece of the state is
written by. -/

namespace Sys2Proof

open Sys2Proof.Machine Sys2Proof.Safety

/-- What one step from `s` leads to. -/
inductive StepOutcome (s : State) : State → Prop
  | turnedAway (hop : s.nextOp = .tick) (hlatch : s.fault ≠ none ∨ s.wait ≠ none) : StepOutcome s s.takeOp
  | fetchFault {a bad : Word16} (hop : s.nextOp = .tick) (hfault : s.fault = none) (hwait : s.wait = none)
      (ha : a = if s.skip then s.pc + 2 else s.pc) (hbad : outOfRange a 2 = some bad) :
      StepOutcome s { s with pc := a, skip := false, schedule := s.schedule.tail,
                             fault := some ⟨.memoryOutOfRange, a, some bad⟩ }
  | executed {a : Word16} {i : Instr} {t : State} (hfetch : fetches s a i) (hexec : exec i (afterFetch s a) = .next t) :
      StepOutcome s t
  | timerTick (hop : s.nextOp = .timerTick) : StepOutcome s (timerTick s.takeOp)
  | keyDone (k x : Nibble) (hop : s.nextOp = .keyEvent k) (hfault : s.fault = none) (hwait : s.wait = some x) :
      StepOutcome s ((s.takeOp.setV x (keyByte k)).setWait none)
  | keyIgnored (k : Nibble) (hop : s.nextOp = .keyEvent k) (hidle : s.fault ≠ none ∨ s.wait = none) :
      StepOutcome s s.takeOp
  | reset (bs : List Byte) (hop : (s.nextOp = .reset ∧ bs = []) ∨ s.nextOp = .loadRom bs) (hlength : bs.length ≤ 3584) :
      StepOutcome s { s.takeOp.hostReset with mem := (s.takeOp.hostReset.writeBytes romStart bs).mem }
  | romRejected (bs : List Byte) (hop : s.nextOp = .loadRom bs) (hlength : 3584 < bs.length) : StepOutcome s s.takeOp

section
variable {s t : State}

/-! ### The fetch of a tick that gets past the latches (R76, R77) -/

theorem consumeSkip_takeOp (s : State) : s.takeOp.consumeSkip =
    { s with pc := if s.skip then s.pc + 2 else s.pc, skip := false, schedule := s.schedule.tail } :=
  State.consumeSkip_eq s.takeOp

theorem fetchesAt_of_inRange (hop : s.nextOp = .tick) (hfault : s.fault = none) (hwait : s.wait = none)
    (hrange : outOfRange (if s.skip then s.pc + 2 else s.pc) 2 = none) :
    fetchesAt s (if s.skip then s.pc + 2 else s.pc) := by
  have htop := (outOfRange_eq_none.mp hrange).resolve_left (by decide)
  exact ⟨hop, hfault, hwait, rfl, Nat.le_of_succ_le_succ htop⟩

theorem not_fetchesAt_of_outOfRange {a bad : Word16} (ha : a = if s.skip then s.pc + 2 else s.pc)
    (hbad : outOfRange a 2 = some bad) (b : Word16) : ¬ fetchesAt s b := by
  rintro ⟨-, -, -, hb, htop⟩
  obtain ⟨-, habove, -⟩ := outOfRange_eq_some hbad
  rw [memSize, ha, ← hb] at habove
  omega

theorem stepOutcome_of_unlatched_tick (hop : s.nextOp = .tick) (hfault : s.fault = none) (hwait : s.wait = none)
    (h : step s = .next t) : StepOutcome s t := by
  cases hrange : outOfRange (if s.skip then s.pc + 2 else s.pc) 2 with
  | none =>
    have hfetch : fetches s _ _ := ⟨fetchesAt_of_inRange hop hfault hwait hrange, rfl⟩
    exact .executed hfetch (step_of_fetches hfetch ▸ h)
  | some bad =>
    rw [step_of_fetch_outOfRange hop hfault hwait (by rw [consumeSkip_takeOp]; exact hrange), consumeSkip_takeOp] at h
    cases h
    exact .fetchFault hop hfault hwait rfl hrange

theorem stepOutcome_hostReset_writeBytes {bs : List Byte} (hop : (s.nextOp = .reset ∧ bs = []) ∨ s.nextOp = .loadRom bs)
    (hlength : bs.length ≤ 3584) : StepOutcome s (s.takeOp.hostReset.writeBytes romStart bs) := by
  rw [State.writeBytes_eq]
  exact .reset bs hop hlength

/-- Every step goes one of the eight ways. -/
theorem step_outcome (h : step s = .next t) : StepOutcome s t := by
  obtain ⟨hop, heq⟩ | ⟨hop, heq⟩ | ⟨k, hop, heq⟩ | ⟨hop, heq⟩ | ⟨bs, hop, heq⟩ := step_cases s
  · by_cases hlatch : s.fault ≠ none ∨ s.wait ≠ none
    · rw [heq, tick_gated (s := s.takeOp) (State.gated_eq_true.mpr hlatch)] at h
      cases h
      exact .turnedAway hop hlatch
    · push Not at hlatch
      exact stepOutcome_of_unlatched_tick hop hlatch.1 hlatch.2 h
  · cases heq.symm.trans h
    exact .timerTick hop
  · cases heq.symm.trans h
    obtain ⟨x, hfault, hwait, hkey⟩ | ⟨hidle, hkey⟩ := keyEvent_cases k s.takeOp <;> rw [hkey]
    · exact .keyDone k x hop hfault hwait
    · exact .keyIgnored k hop hidle
  · cases heq.symm.trans h
    exact stepOutcome_hostReset_writeBytes (.inl ⟨hop, rfl⟩) (Nat.zero_le _)
  · cases heq.symm.trans h
    obtain ⟨hlength, -, hload⟩ | ⟨hlength, -, hload⟩ := loadRom_cases bs s.takeOp <;> rw [hload]
    · exact stepOutcome_hostReset_writeBytes (.inr hop) hlength
    · exact .romRejected bs hop hlength

/-! ### Which operations reset the engine -/

theorem resets_of_reset {bs : List Byte} (hop : (s.nextOp = .reset ∧ bs = []) ∨ s.nextOp = .loadRom bs)
    (hlength : bs.length ≤ 3584) : resets s := by
  obtain ⟨hreset, -⟩ | hload := hop
  · exact .inl hreset
  · exact .inr ⟨bs, hload, hlength⟩

theorem not_resets_of_nextOp {op : HostOp} (hop : s.nextOp = op) (hreset : op ≠ .reset)
    (hload : ∀ bs, op = .loadRom bs → 3584 < bs.length) : ¬ resets s := by
  rintro (h | ⟨bs, h, hlength⟩)
  · exact hreset (hop.symm.trans h)
  · exact (hload bs (hop.symm.trans h)).not_ge hlength

/-! ### A step fetches at most one instruction -/

theorem fetches_unique {a b : Word16} {i j : Instr} (h : fetches s a i) (h' : fetches s b j) : a = b ∧ i = j := by
  obtain ⟨⟨-, -, -, rfl, -⟩, rfl⟩ := h
  obtain ⟨⟨-, -, -, rfl, -⟩, rfl⟩ := h'
  exact ⟨rfl, rfl⟩

/-! ### Where call and return leave `PC` (R32) -/

theorem exec_call_pc {nnn : Addr12} (hfault : s.fault = none) (h : exec (.call nnn) s = .next t) :
    if t.fault = none then t.pc.toNat = nnn.toNat else t.pc = s.pc := by
  rw [exec_call] at h
  cases h
  obtain ⟨-, heq⟩ | ⟨-, heq⟩ := s.pushJump_cases s.pc (zext16 nnn) <;> rw [heq]
  · simp [hfault, toNat_zext16]
  · simp

theorem exec_ret_pc (h : exec .ret s = .next t) :
    (∃ top rest, s.stack = top :: rest ∧ t.pc = top) ∨ (s.stack = [] ∧ t.pc = s.pc) := by
  rw [exec_ret] at h
  cases h
  obtain ⟨top, rest, hstack, heq⟩ | ⟨hempty, heq⟩ := s.popJump_cases <;> rw [heq]
  · exact .inl ⟨top, rest, hstack, rfl⟩
  · exact .inr ⟨hempty, rfl⟩

end

/-! ### The statements -/

/-- Settles O14: every way a step can go has a next state, and none of them touches the parameters. -/
theorem everyStepHasANextStateWithTheSameParameters : Obligations.EveryStepHasANextStateWithTheSameParameters := by
  intro s
  obtain ⟨t, ht⟩ := step_next s
  refine ⟨t, ht, ?_⟩
  cases step_outcome ht with
  | executed _ hexec => exact (exec_params hexec).trans rfl
  | _ => rfl

/-- Settles O43: of the eight ways only an executed instruction and a reset write `I`. -/
theorem indexIsWrittenOnlyAsListed : Obligations.IndexIsWrittenOnlyAsListed := by
  intro s t ht
  cases step_outcome ht with
  | @executed a _ _ hfetch hexec =>
    obtain hsame | ⟨nnn, rfl | rfl⟩ | ⟨x, rfl | rfl⟩ := exec_index hexec
    · exact .inl hsame
    · exact .inr (.inr ⟨a, .inl ⟨nnn, .inl hfetch⟩⟩)
    · exact .inr (.inr ⟨a, .inl ⟨nnn, .inr hfetch⟩⟩)
    · exact .inr (.inr ⟨a, .inr ⟨x, .inl hfetch⟩⟩)
    · exact .inr (.inr ⟨a, .inr ⟨x, .inr hfetch⟩⟩)
  | reset _ hop hlength => exact .inr (.inl (resets_of_reset hop hlength))
  | _ => exact .inl rfl

/-- Settles O54: only an executed call or return and a reset touch the stack, and a call pushes the address after it. -/
theorem stackChangesOnlyByCallAndReturn : Obligations.StackChangesOnlyByCallAndReturn := by
  intro s t ht
  cases step_outcome ht with
  | @executed a _ _ hfetch hexec =>
    obtain hsame | ⟨nnn, rfl, hpush, hroom⟩ | ⟨rfl, hpop⟩ := exec_stack hexec
    · exact .inl hsame
    · exact .inr (.inr (.inl ⟨a, nnn, hfetch, hpush, hroom⟩))
    · exact .inr (.inr (.inr ⟨a, hfetch, hpop⟩))
  | reset _ hop hlength => exact .inr (.inl ⟨resets_of_reset hop hlength, rfl⟩)
  | _ => exact .inl rfl

/-- Settles O56: a byte that changed lies in the range of a store, or the engine was reset. -/
theorem memoryIsWrittenOnlyByTheStores : Obligations.MemoryIsWrittenOnlyByTheStores := by
  intro s t b ht hne
  cases step_outcome ht with
  | @executed a _ _ hfetch hexec =>
    obtain hsame | ⟨x, rfl, houtside⟩ | ⟨x, rfl, houtside⟩ := exec_memory hexec
    · exact absurd (hsame b) hne
    · have hinside := mt (houtside b) hne
      change ¬ (b < s.i.toNat ∨ s.i.toNat + 3 ≤ b) at hinside
      exact .inr (.inl ⟨a, x, hfetch, by omega, by omega⟩)
    · have hinside := mt (houtside b) hne
      change ¬ (b < s.i.toNat ∨ s.i.toNat + (x.toNat + 1) ≤ b) at hinside
      exact .inr (.inr ⟨a, x, hfetch, by omega, by omega⟩)
  | reset _ hop hlength => exact .inl (resets_of_reset hop hlength)
  | _ => exact absurd rfl hne

/-- Settles O57: the four writers are the four ways a step can touch the latch. -/
theorem waitLatchIsWrittenOnlyAsListed : Obligations.WaitLatchIsWrittenOnlyAsListed := by
  intro s t ht
  cases step_outcome ht with
  | @executed a _ _ hfetch hexec =>
    obtain hsame | ⟨x, rfl, hset⟩ := exec_wait hexec
    · exact .inl hsame
    · exact .inr (.inr (.inl ⟨a, x, hfetch, hset⟩))
  | keyDone k _ hop hfault => exact .inr (.inr (.inr ⟨k, hop, hfault, rfl⟩))
  | reset _ hop hlength => exact .inr (.inl ⟨resets_of_reset hop hlength, rfl⟩)
  | _ => exact .inl rfl

/-- Settles O58: only an executed instruction makes a call, and the call says which. -/
theorem portsAreDrivenOnlyByTheirInstructions : Obligations.PortsAreDrivenOnlyByTheirInstructions := by
  intro s t ht
  cases step_outcome ht with
  | @executed a _ _ hfetch hexec =>
    obtain hsame | ⟨c, hcall, hi⟩ := exec_ports hexec
    · exact .inl hsame
    · refine .inr ⟨a, c, hcall, ?_⟩
      cases c with
      | clear => exact hi ▸ hfetch
      | draw =>
        obtain ⟨x, y, rfl⟩ := hi
        exact ⟨x, y, hfetch⟩
      | keyPressed =>
        obtain ⟨x, rfl | rfl⟩ := hi
        · exact ⟨x, .inl hfetch⟩
        · exact ⟨x, .inr hfetch⟩
      | rand =>
        obtain ⟨x, nn, rfl⟩ := hi
        exact ⟨x, nn, hfetch⟩
  | _ => exact .inl rfl

/-- Settles O20, one way after the other; of the instructions only jump, call and return write `PC`. -/
theorem pcChangesOnlyAsListed : Obligations.PcChangesOnlyAsListed := by
  intro s t ht
  cases step_outcome ht with
  | turnedAway hop hlatch =>
    rw [hop]
    refine ⟨fun _ => rfl, fun hfault hwait => ?_, fun a i hfetch => ?_⟩
    · exact absurd hlatch (by simp [hfault, hwait])
    · obtain ⟨⟨-, hfault, hwait, -⟩, -⟩ := hfetch
      exact absurd hlatch (by simp [hfault, hwait])
  | fetchFault hop hfault hwait ha hbad =>
    rw [hop]
    refine ⟨fun hlatch => ?_, fun _ _ _ => ha, fun a i hfetch => ?_⟩
    · exact absurd hlatch (by simp [hfault, hwait])
    · exact absurd hfetch.1 (not_fetchesAt_of_outOfRange ha hbad a)
  | @executed a i _ hfetch hexec =>
    obtain ⟨hop, hfault, hwait, -⟩ := hfetch.1
    rw [hop]
    refine ⟨fun hlatch => ?_, fun _ _ hnone => ?_, fun b j hfetch' => ?_⟩
    · exact absurd hlatch (by simp [hfault, hwait])
    · exact absurd hfetch.1 (hnone a)
    · obtain ⟨rfl, rfl⟩ := fetches_unique hfetch hfetch'
      cases i with
      | jump nnn =>
        cases hexec
        exact toNat_zext16 nnn
      | call nnn => exact exec_call_pc (s := afterFetch s a) hfault hexec
      | ret =>
        obtain ⟨top, rest, hstack, hpc⟩ | ⟨hempty, hpc⟩ := exec_ret_pc hexec
        · rw [show s.stack = top :: rest from hstack]
          exact hpc
        · rw [show s.stack = [] from hempty]
          exact hpc
      | _ => exact exec_pc hexec (fun _ => ⟨nofun, nofun⟩) nofun
  | timerTick hop => rw [hop]; rfl
  | keyDone _ _ hop => rw [hop]; rfl
  | keyIgnored _ hop => rw [hop]; rfl
  | reset _ hop hlength =>
    obtain ⟨hop, -⟩ | hop := hop <;> rw [hop]
    · rfl
    · exact (if_pos hlength).symm
  | romRejected _ hop hlength =>
    rw [hop]
    exact (if_neg hlength.not_ge).symm

/-- Settles O52: a faulted engine executes nothing and completes no wait, and a timer tick writes the timers alone. -/
theorem faultIsLeftOnlyByAReset : Obligations.FaultIsLeftOnlyByAReset := by
  intro s r hr
  obtain ⟨t, ht⟩ := step_next s
  refine ⟨t, ht, ?_⟩
  cases step_outcome ht with
  | timerTick hop =>
    exact ⟨fun h => absurd h (not_resets_of_nextOp hop (by simp) (by simp)), fun _ => ⟨rfl, fun h => absurd hop h⟩⟩
  | turnedAway hop | keyIgnored _ hop =>
    exact ⟨fun h => absurd h (not_resets_of_nextOp hop (by simp) (by simp)), fun _ => ⟨rfl, fun _ => ⟨rfl, rfl⟩⟩⟩
  | romRejected bs hop hlength =>
    exact ⟨fun h => absurd h (not_resets_of_nextOp hop (by simp) (by simpa using hlength)),
      fun _ => ⟨rfl, fun _ => ⟨rfl, rfl⟩⟩⟩
  | reset _ hop hlength => exact ⟨fun _ => rfl, fun h => absurd (resets_of_reset hop hlength) h⟩
  | fetchFault _ hfault | keyDone _ _ _ hfault => cases hr.symm.trans hfault
  | executed hfetch => cases hr.symm.trans hfetch.1.2.1

end Sys2Proof
end

section
/-! SUPPORT. What an unlatched engine keeps while it executes, and from it that every operation of the host keeps the engine's
invariant (10_state.md R29, R34, R36, R37, R41, 60_exceptions.md R127). -/

namespace Sys2Proof

open Sys2Proof.Machine Sys2Proof.Safety

/-! ### The recorded fault (60_exceptions.md R127) -/

section
variable {s : State} {kind : FaultKind} {addr : Option Word16} (p : Word16)

/-- The address the range check reports is out of range. -/
theorem recordWf_of_accessCause {n : Nat} (h : accessCause s n = some (kind, addr.map BitVec.toNat)) :
    recordWf ⟨kind, p, addr⟩ := by
  rw [accessCause_eq] at h
  obtain ⟨-, h⟩ := Option.ite_none_right_eq_some.mp h
  obtain ⟨rfl, haddr⟩ := Prod.mk.inj (Option.some.inj h)
  obtain ⟨a, rfl, ha⟩ := Option.map_eq_some_iff.mp haddr.symm
  exact ⟨a, rfl, ha ▸ Nat.le_max_right _ _⟩

/-- The cause table gives an out-of-range address to `MemoryOutOfRange` and none to the other kinds. -/
theorem recordWf_of_faultCause {i : Instr} (h : faultCause i s = some (kind, addr.map BitVec.toNat)) :
    recordWf ⟨kind, p, addr⟩ := by
  cases i with
  | call | ret =>
    obtain ⟨-, h⟩ := Option.ite_none_right_eq_some.mp h
    obtain ⟨rfl, haddr⟩ := Prod.mk.inj (Option.some.inj h)
    exact Option.map_eq_none_iff.mp haddr.symm
  | draw x y n => exact recordWf_of_accessCause p (faultCause_draw s x y n ▸ h)
  | storeBcd x => exact recordWf_of_accessCause p (faultCause_storeBcd s x ▸ h)
  | storeRegisters x => exact recordWf_of_accessCause p (faultCause_storeRegisters s x ▸ h)
  | loadRegisters x => exact recordWf_of_accessCause p (faultCause_loadRegisters s x ▸ h)
  | _ => cases h

end

/-! ### Execution -/

/-- An engine that executes: no latch is set and no skip is pending, and the fetch was in range (40_cycle.md R79). -/
structure Executing (s : State) : Prop where
  inv : Inv s
  fault : s.fault = none
  wait : s.wait = none
  skip : s.skip = false
  pc : s.pc.toNat ≤ 0x1000

section
variable {s t : State} {i : Instr} {a : Word16}

theorem executing_afterFetch (hinv : Inv s) (h : fetchesAt s a) : Executing (afterFetch s a) := by
  obtain ⟨-, hfault, hwait, -, htop⟩ := h
  have hpc : (a + 2).toNat ≤ 0x1000 := by
    rw [BitVec.toNat_add]
    simp
    omega
  exact ⟨{ hinv with
    pcRunning := fun _ => hpc
    pcFaulted := Nat.le_trans hpc (by decide)
    latchedNoSkip := fun _ => rfl }, hfault, hwait, rfl, hpc⟩

theorem Executing.inv_raiseExec (h : Executing s) (kind : FaultKind) (addr : Option Word16)
    (hcause : faultCause i s = some (kind, addr.map BitVec.toNat)) : Inv (s.raiseExec kind addr) :=
  { h.inv with
    pcRunning := nofun
    oneLatch := fun hwait => absurd h.wait hwait
    latchedNoSkip := fun _ => h.skip
    record := fun r hr => by cases hr; exact recordWf_of_faultCause _ hcause }

theorem Executing.inv_setI (h : Executing s) {a : Word16} (ha : a.toNat ≤ 0x10FE) : Inv (s.setI a) :=
  { h.inv with index := ha }

theorem Executing.inv_effect (h : Executing s) (heffect : ExecEffect s i t) : Inv t := by
  have hinv := h.inv
  cases heffect with
  | ret hstack =>
    have hentries := hinv.entries
    have hdepth := hinv.depth
    rw [hstack] at hentries hdepth
    have hpc := hentries _ List.mem_cons_self
    exact { hinv with
      depth := Nat.le_of_succ_le hdepth
      entries := fun a ha => hentries a (List.mem_cons_of_mem _ ha)
      pcRunning := fun _ => hpc
      pcFaulted := Nat.le_trans hpc (by decide) }
  | jump nnn =>
    have hpc : (zext16 nnn).toNat ≤ 0x1000 := toNat_zext16 nnn ▸ Nat.le_of_lt nnn.isLt
    exact { hinv with pcRunning := fun _ => hpc, pcFaulted := Nat.le_trans hpc (by decide) }
  | call nnn hroom =>
    have hpc : (zext16 nnn).toNat ≤ 0x1000 := toNat_zext16 nnn ▸ Nat.le_of_lt nnn.isLt
    exact { hinv with
      depth := hroom
      entries := List.forall_mem_cons.mpr ⟨h.pc, hinv.entries⟩
      pcRunning := fun _ => hpc
      pcFaulted := Nat.le_trans hpc (by decide) }
  | skip => exact { hinv with latchedNoSkip := by simp [State.gated, h.fault, h.wait] }
  | keySkip => exact { hinv with latchedNoSkip := by simp [State.gated, h.fault, h.wait] }
  | loadIndex nnn => exact h.inv_setI (by rw [toNat_zext16]; omega)
  | jumpOffset nnn => exact h.inv_setI (by rw [BitVec.toNat_add, toNat_zext16, toNat_byte16]; omega)
  | addToIndex x => exact h.inv_setI (by rw [toNat_indexSum]; omega)
  | loadFontSprite x => exact h.inv_setI (by rw [toNat_glyphAddr]; omega)
  | storeBcd _ _ _ hrange | storeRegisters _ _ _ hrange =>
    exact { hinv with memory := State.wf_writeBytes hinv.memory hrange }
  | blockOnKey => exact { hinv with oneLatch := fun _ => h.fault, latchedNoSkip := fun _ => h.skip }
  | registers | clearScreen | draw | randomAnd | setDelayTimer | setSoundTimer => exact { hinv with }

theorem Executing.inv_exec (h : Executing s) (hexec : exec i s = .next t) : Inv t := by
  cases exec_outcome hexec with
  | faulted kind addr hcause => exact h.inv_raiseExec kind addr hcause
  | done _ heffect => exact h.inv_effect heffect

/-! ### The host's operations -/

/-- The reset state with bytes loaded that all exist. -/
theorem inv_hostReset_writeBytes {addr : Nat} {bs : List Byte} (hrange : addr + bs.length ≤ memSize) :
    Inv { s.hostReset with mem := (s.hostReset.writeBytes addr bs).mem } where
  memory := State.wf_writeBytes (Memory.wf_nil _) hrange
  depth := Nat.zero_le _
  entries := nofun
  pcRunning := fun _ => show (0x200#16).toNat ≤ 0x1000 by decide
  pcFaulted := show (0x200#16).toNat ≤ 0x1002 by decide
  index := Nat.zero_le _
  oneLatch := fun _ => rfl
  latchedNoSkip := fun _ => rfl
  record := nofun

/-- A fetch that faults happens at most two past where an engine stops (10_state.md R34). -/
theorem inv_of_fetchFault {bad : Word16} (hinv : Inv s) (hfault : s.fault = none) (hwait : s.wait = none)
    (ha : a = if s.skip then s.pc + 2 else s.pc) (hbad : outOfRange a 2 = some bad) :
    Inv { s with pc := a, skip := false, schedule := s.schedule.tail,
                 fault := some ⟨.memoryOutOfRange, a, some bad⟩ } := by
  have hpc := hinv.pcRunning hfault
  have hapc : a.toNat ≤ 0x1002 := by
    rw [ha]
    split
    · rw [BitVec.toNat_add]
      simp
      omega
    · omega
  exact { hinv with
    pcRunning := nofun
    pcFaulted := hapc
    oneLatch := fun h => absurd hwait h
    latchedNoSkip := fun _ => rfl
    record := fun r hr => by
      cases hr
      exact ⟨bad, rfl, (outOfRange_eq_some hbad).2.2 ▸ Nat.le_max_right _ _⟩ }

end

/-! ### The statements -/

/-- Settles O13: each way a step can go keeps every part of the invariant, and an instruction starts in an unlatched engine. -/
theorem everyStepKeepsTheInvariant : Obligations.EveryStepKeepsTheInvariant := by
  intro s t hinv ht
  cases step_outcome ht with
  | turnedAway | keyIgnored | romRejected | timerTick => exact { hinv with }
  | fetchFault _ hfault hwait ha hbad => exact inv_of_fetchFault hinv hfault hwait ha hbad
  | executed hfetch hexec => exact (executing_afterFetch hinv hfetch.1).inv_exec hexec
  | keyDone _ _ _ hfault hwait =>
    exact { hinv with
      oneLatch := fun h => absurd rfl h
      latchedNoSkip := fun _ => hinv.latchedNoSkip (State.gated_eq_true.mpr (.inr (by simp [hwait]))) }
  | reset _ _ hlength => exact inv_hostReset_writeBytes (Nat.add_le_add_left hlength romStart)

/-- Settles O12: the reset state is what a reset of it leaves. -/
theorem invariantHoldsAtReset : Obligations.InvariantHoldsAtReset :=
  inv_hostReset_writeBytes (s := State.reset) (addr := 0) (bs := []) (Nat.zero_le _)

end Sys2Proof
end

section
/-! SUPPORT. What an execute step does not depend on: the pending-skip flag and the timers (10_state.md R35, R40), but for the
instruction that reads `DT`, and the registers that R28 does not list as read. -/

namespace Sys2Proof

open Sys2Proof.Machine Sys2Proof.Safety

/-! ### Return by the depth of the stack (10_state.md R39) -/

theorem popJump_of_cons {s : State} {top : Word16} {rest : List Word16} (h : s.stack = top :: rest) :
    s.popJump = { s with pc := top, stack := rest } := by
  rw [State.popJump, h]

theorem popJump_of_nil {s : State} (h : s.stack = []) : s.popJump = s.raiseExec .stackUnderflow none := by
  rw [State.popJump, h]

/-! ### Replacing what the stack, the stores and the range check do not see -/

/-- `g` replaces parts of the state that no access of the stack, store or range check reads or writes. -/
structure Unseen (g : State → State) : Prop where
  index : ∀ s, (g s).i = s.i
  stack : ∀ s, (g s).stack = s.stack
  params : ∀ s, (g s).params = s.params
  raiseExec : ∀ s kind addr, (g s).raiseExec kind addr = g (s.raiseExec kind addr)
  stackPc : ∀ s stack pc, { g s with stack := stack, pc := pc } = g { s with stack := stack, pc := pc }
  writeByte : ∀ s a b, (g s).writeByte a b = g (s.writeByte a b)

section
variable {g : State → State} (hg : Unseen g) (s : State)
include hg

theorem Unseen.pushJump (v target : Word16) : (g s).pushJump v target = g (s.pushJump v target) := by
  obtain ⟨hroom, heq⟩ | ⟨hfull, heq⟩ := s.pushJump_cases v target <;> rw [heq]
  · rw [pushJump_of_room v target (by rwa [hg.stack, hg.params]), hg.stack, hg.stackPc]
  · rw [pushJump_of_full v target (by rwa [hg.stack, hg.params]), hg.raiseExec]

theorem Unseen.popJump : (g s).popJump = g s.popJump := by
  obtain ⟨top, rest, hstack, heq⟩ | ⟨hempty, heq⟩ := s.popJump_cases <;> rw [heq]
  · rw [popJump_of_cons ((hg.stack s).trans hstack), hg.stackPc]
  · rw [popJump_of_nil ((hg.stack s).trans hempty), hg.raiseExec]

theorem Unseen.writeBytes (a : Nat) (bs : List Byte) : (g s).writeBytes a bs = g (s.writeBytes a bs) := by
  induction bs generalizing s a with
  | nil => rfl
  | cons b bs ih => rw [State.writeBytes, State.writeBytes, hg.writeByte, ih]

/-- Both accesses have their effect, or both fault alike (20_memory.md R53). -/
theorem Unseen.accessAtI_cases (n : Nat) (e e' : State) :
    (s.accessAtI n e = e ∧ (g s).accessAtI n e' = e') ∨
    ∃ kind addr, s.accessAtI n e = s.raiseExec kind addr ∧ (g s).accessAtI n e' = g (s.raiseExec kind addr) := by
  obtain ⟨hrange, heq⟩ | ⟨bad, hbad, heq⟩ := s.accessAtI_cases n e
  · exact .inl ⟨heq, by rw [State.accessAtI, hg.index, hrange]⟩
  · exact .inr ⟨_, _, heq, by rw [State.accessAtI, hg.index, hbad, ← hg.raiseExec]⟩

end

/-! ### An engine with another pending-skip flag and other timers -/

/-- The engine with its pending-skip flag and its timers replaced. -/
def withSkipTimers (skip : Bool) (dt st : Byte) (s : State) : State := { s with skip := skip, dt := dt, st := st }

section
variable (skip : Bool) (dt st : Byte)

theorem unseen_withSkipTimers : Unseen (withSkipTimers skip dt st) where
  index _ := rfl
  stack _ := rfl
  params _ := rfl
  raiseExec _ _ _ := rfl
  stackPc _ _ _ := rfl
  writeByte _ _ _ := rfl

theorem withSkipTimers_setRegs (s : State) (k : Nat) (bs : List Byte) :
    (withSkipTimers skip dt st s).setRegs k bs = withSkipTimers skip dt st (s.setRegs k bs) := by
  induction bs generalizing s k with
  | nil => rfl
  | cons b bs ih => exact ih (s.setV (BitVec.ofNat 4 k) b) (k + 1)

theorem withSkipTimers_accessAtI (s : State) (n : Nat) {e e' : State} (he : e' = withSkipTimers skip dt st e) :
    (withSkipTimers skip dt st s).accessAtI n e' = withSkipTimers skip dt st (s.accessAtI n e) := by
  obtain ⟨heq, heq'⟩ | ⟨kind, addr, heq, heq'⟩ := (unseen_withSkipTimers skip dt st).accessAtI_cases s n e e'
  · rw [heq, heq', he]
  · rw [heq, heq']

end

/-- The instructions that write `DT` and `ST` (10_state.md R40). -/
def writesDt : Instr → Bool
  | .setDelayTimer _ => true
  | _ => false

def writesSt : Instr → Bool
  | .setSoundTimer _ => true
  | _ => false

/-- Every instruction but the one that reads `DT` runs alike whatever the pending-skip flag and the timers hold, and leaves
them as they are unless it writes them. -/
theorem exec_withSkipTimers {i : Instr} {s t : State} (h : exec i s = .next t) (skip : Bool) (dt st : Byte)
    (hdt : (∀ x, i ≠ .readDelayTimer x) ∨ dt = s.dt) :
    exec i (withSkipTimers skip dt st s) = .next (withSkipTimers (if writesSkip i then t.skip else skip)
      (if writesDt i then t.dt else dt) (if writesSt i then t.st else st) t) := by
  have hunseen := unseen_withSkipTimers skip dt st
  cases i with
  | readDelayTimer x =>
    obtain hno | rfl := hdt
    · exact absurd rfl (hno x)
    · cases h; rfl
  | ret =>
    rw [exec_ret] at h ⊢
    cases h
    exact congrArg _ (hunseen.popJump s)
  | call nnn =>
    rw [exec_call] at h ⊢
    cases h
    exact congrArg _ (hunseen.pushJump s _ _)
  | storeBcd x =>
    rw [exec_storeBcd] at h ⊢
    cases h
    exact congrArg _ (withSkipTimers_accessAtI _ _ _ s _ (hunseen.writeBytes s _ _))
  | storeRegisters x =>
    rw [exec_storeRegisters] at h ⊢
    cases h
    exact congrArg _ (withSkipTimers_accessAtI _ _ _ s _ (hunseen.writeBytes s _ _))
  | loadRegisters x =>
    rw [exec_loadRegisters] at h ⊢
    cases h
    exact congrArg _ (withSkipTimers_accessAtI _ _ _ s _ (withSkipTimers_setRegs _ _ _ s _ _))
  | draw x y n =>
    rw [exec_draw] at h ⊢
    cases h
    exact congrArg _ (withSkipTimers_accessAtI _ _ _ s _ rfl)
  | _ => cases h; rfl

section
variable {i : Instr} {s t : State}

/-! ### A field written only where listed, as the choice that `exec_withSkipTimers` makes for it -/

theorem ite_writesSkip (h : exec i s = .next t) : (if writesSkip i then t.skip else s.skip) = t.skip := by
  obtain hsame | hi := exec_skip h
  · rw [hsame, ite_self]
  · rw [if_pos hi]

theorem ite_writesDt (h : exec i s = .next t) : (if writesDt i then t.dt else s.dt) = t.dt := by
  obtain hsame | ⟨x, rfl⟩ := exec_dt h
  · rw [hsame, ite_self]
  · rfl

theorem ite_writesSt (h : exec i s = .next t) : (if writesSt i then t.st else s.st) = t.st := by
  obtain hsame | ⟨x, rfl⟩ := exec_st h
  · rw [hsame, ite_self]
  · rfl

theorem writesDt_eq_false (h : ∀ x, i ≠ .setDelayTimer x) : writesDt i = false := by
  cases i with
  | setDelayTimer x => exact absurd rfl (h x)
  | _ => rfl

theorem writesSt_eq_false (h : ∀ x, i ≠ .setSoundTimer x) : writesSt i = false := by
  cases i with
  | setSoundTimer x => exact absurd rfl (h x)
  | _ => rfl

theorem exec_with_skip (h : exec i s = .next t) (b : Bool) :
    exec i { s with skip := b } = .next { t with skip := if writesSkip i then t.skip else b } := by
  refine (exec_withSkipTimers h b s.dt s.st (.inr rfl)).trans ?_
  rw [ite_writesDt h, ite_writesSt h, withSkipTimers]

theorem exec_with_dt (h : exec i s = .next t) (b : Byte) (hread : ∀ x, i ≠ .readDelayTimer x)
    (hwrite : ∀ x, i ≠ .setDelayTimer x) : exec i { s with dt := b } = .next { t with dt := b } := by
  refine (exec_withSkipTimers h s.skip b s.st (.inl hread)).trans ?_
  rw [ite_writesSkip h, writesDt_eq_false hwrite, ite_writesSt h]
  rfl

theorem exec_with_st (h : exec i s = .next t) (b : Byte) (hwrite : ∀ x, i ≠ .setSoundTimer x) :
    exec i { s with st := b } = .next { t with st := b } := by
  refine (exec_withSkipTimers h s.skip s.dt b (.inr rfl)).trans ?_
  rw [ite_writesSkip h, ite_writesDt h, writesSt_eq_false hwrite]
  rfl

end

/-! ### The statements -/

/-- Settles O53: a tick consumes a pending skip before it executes, so the flag after it is what the instruction wrote. -/
theorem skipFlagIsSetOnlyBySixInstructions : Obligations.SkipFlagIsSetOnlyBySixInstructions := by
  refine ⟨fun s t ht => ?steps, fun i s b => ?reads⟩
  case reads =>
    obtain ⟨t, ht⟩ := exec_next i s
    exact ⟨t, ht, exec_with_skip ht b⟩
  case steps =>
    cases step_outcome ht with
    | @executed a i _ hfetch hexec =>
      obtain ⟨hop, hfault, hwait, -⟩ := hfetch.1
      refine ⟨fun _ hset => ⟨a, i, hfetch, ?_⟩, fun _ _ => .inr ⟨hop, hfault, hwait⟩⟩
      exact (exec_skip hexec).resolve_left fun hsame => nomatch hset.symm.trans hsame
    | fetchFault hop hfault hwait => exact ⟨fun _ hset => (nomatch hset), fun _ _ => .inr ⟨hop, hfault, hwait⟩⟩
    | reset _ hop hlength => exact ⟨fun _ hset => (nomatch hset), fun _ _ => .inl (resets_of_reset hop hlength)⟩
    | _ => exact ⟨fun hclear hset => (nomatch hclear.symm.trans hset), fun hset hclear => nomatch hset.symm.trans hclear⟩

/-- Settles O55: no execute step but those listed writes a timer, and one that neither reads nor writes it runs alike
whatever it holds. -/
theorem timersAreReadAndWrittenOnlyAsListed : Obligations.TimersAreReadAndWrittenOnlyAsListed := by
  refine ⟨fun x s => ⟨exec_setDelayTimer s x, exec_setSoundTimer s x, _, exec_readDelayTimer s x, getV_setV_self s x _⟩,
    fun i s => ?reads, fun s t ht hreset htick => ?writes, fun s t ht htick => ?counts⟩
  case reads =>
    obtain ⟨t, ht⟩ := exec_next i s
    exact ⟨t, ht, fun b => exec_with_dt ht b, fun b => exec_with_st ht b⟩
  case writes =>
    cases step_outcome ht with
    | @executed a _ _ hfetch hexec =>
      refine ⟨fun hno => (exec_dt hexec).resolve_right ?_, fun hno => (exec_st hexec).resolve_right ?_⟩
      · rintro ⟨x, rfl⟩
        exact hno a x hfetch
      · rintro ⟨x, rfl⟩
        exact hno a x hfetch
    | timerTick hop => exact absurd hop htick
    | reset _ hop hlength => exact absurd (resets_of_reset hop hlength) hreset
    | _ => exact ⟨fun _ => rfl, fun _ => rfl⟩
  case counts =>
    rw [step_eq, htick] at ht
    cases ht
    exact ⟨toNat_timer s.dt, toNat_timer s.st⟩

end Sys2Proof
end

section
/-! SUPPORT. Two execute steps that start with different registers, where the registers the instruction reads agree (10_state.md
R28): the two next states differ in registers alone, and not in those the instruction writes. -/

namespace Sys2Proof

open Sys2Proof.Machine Sys2Proof.Safety

/-- The engine with its register file replaced. -/
def withRegs (v : Vector Byte 16) (s : State) : State := { s with v := v }

theorem unseen_withRegs (v : Vector Byte 16) : Unseen (withRegs v) where
  index _ := rfl
  stack _ := rfl
  params _ := rfl
  raiseExec _ _ _ := rfl
  stackPc _ _ _ := rfl
  writeByte _ _ _ := rfl

/-- The two states differ in registers alone, and agree on those `i` writes unless it faults. -/
def AgreeOnWritten (i : Instr) (t t' : State) : Prop :=
  t' = { t with v := t'.v } ∧ (t.fault = none → ∀ z, writesV i z = true → t'.getV z = t.getV z)

section
variable (s : State) (v : Vector Byte 16) {i : Instr}

/-! ### One lemma for each shared shape of effect -/

theorem agreeOnWritten_of_writes_none {t t' : State} (hframe : t' = { t with v := t'.v })
    (hi : ∀ z, writesV i z = false) : AgreeOnWritten i t t' :=
  ⟨hframe, fun _ z hz => by simp [hi] at hz⟩

theorem agreeOnWritten_setV {x : Nibble} {b b' : Byte} (hb : b' = b) (hi : ∀ z, writesV i z = true → z = x) :
    AgreeOnWritten i (s.setV x b) ((withRegs v s).setV x b') := by
  refine ⟨rfl, fun _ z hz => ?_⟩
  rw [hi z hz, getV_setV_self, getV_setV_self, hb]

theorem agreeOnWritten_setFlagResult {x : Nibble} {f f' r r' : Byte} (hf : f' = f) (hr : r' = r)
    (hi : ∀ z, writesV i z = true → z = x ∨ z = vF) :
    AgreeOnWritten i (s.setFlagResult x f r) ((withRegs v s).setFlagResult x f' r') := by
  refine ⟨rfl, fun _ z hz => ?_⟩
  rw [State.getV_setFlagResult, State.getV_setFlagResult, hf, hr]
  obtain rfl | rfl := hi z hz
  · rw [if_pos rfl, if_pos rfl]
  · simp

theorem agreeOnWritten_accessAtI (n : Nat) {e e' : State} (he : AgreeOnWritten i e e') :
    AgreeOnWritten i (s.accessAtI n e) ((withRegs v s).accessAtI n e') := by
  obtain ⟨heq, heq'⟩ | ⟨kind, addr, heq, heq'⟩ := (unseen_withRegs v).accessAtI_cases s n e e' <;> rw [heq, heq']
  · exact he
  · exact ⟨rfl, nofun⟩

/-- A store of the same bytes. -/
theorem agreeOnWritten_store (a n : Nat) {bs bs' : List Byte} (hbs : bs' = bs) (hi : ∀ z, writesV i z = false) :
    AgreeOnWritten i (s.accessAtI n (s.writeBytes a bs)) ((withRegs v s).accessAtI n ((withRegs v s).writeBytes a bs')) := by
  refine agreeOnWritten_accessAtI s v n (agreeOnWritten_of_writes_none ?_ hi)
  rw [hbs, (unseen_withRegs v).writeBytes]
  rfl

theorem agreeOnWritten_loadRegisters (x : Nibble) : AgreeOnWritten (.loadRegisters x)
    (s.setRegs 0 (s.readBytes s.i.toNat (x.toNat + 1)))
    ((withRegs v s).setRegs 0 ((withRegs v s).readBytes s.i.toNat (x.toNat + 1))) := by
  refine ⟨?_, fun _ z hz => ?_⟩
  · rw [State.setRegs_eq, s.setRegs_eq]
    rfl
  · have hz : z.toNat ≤ x.toNat := by simpa [writesV] using hz
    rw [getV_setRegs_readBytes _ _ x.isLt, getV_setRegs_readBytes _ _ x.isLt, if_pos (by omega), if_pos (by omega)]
    rfl

end

/-- The first registers agree when each of them does. -/
theorem getRegs_congr {s t : State} {n : Nat} (hn : n ≤ 16) (h : ∀ z : Nibble, z.toNat < n → t.getV z = s.getV z) :
    t.getRegs n = s.getRegs n := by
  refine List.map_congr_left fun k hk => h _ ?_
  have hk := List.mem_range.mp hk
  rwa [BitVec.toNat_ofNat, Nat.mod_eq_of_lt (by omega)]

/-- The operand of a shift is the one register that `readsV` names under the engine's `SHIFT_SOURCE` (42_alu.md R107). -/
theorem shiftOperand_congr {source : Config.ShiftSource} {x y : Nibble} {s t : State}
    (h : ∀ z, (if source = .vy then z == y else z == x) = true → t.getV z = s.getV z) :
    shiftOperand source (t.getV x) (t.getV y) = shiftOperand source (s.getV x) (s.getV y) := by
  cases source with
  | vy => exact h y (beq_self_eq_true y)
  | vx => exact h x (beq_self_eq_true x)

/-- Every instruction runs alike whatever the registers it does not read hold. -/
theorem agreeOnWritten_exec {i : Instr} {s t t' : State} {v : Vector Byte 16}
    (hread : ∀ z, readsV s.params.shiftSource i z = true → (withRegs v s).getV z = s.getV z)
    (h : exec i s = .next t) (h' : exec i (withRegs v s) = .next t') : AgreeOnWritten i t t' := by
  cases i with
  | clearScreen | jump _ | loadIndex _ | blockOnKey _ | unhandled _ =>
    cases h; cases h'
    exact agreeOnWritten_of_writes_none rfl fun _ => rfl
  | ret =>
    rw [exec_ret] at h h'
    cases h; cases h'
    rw [(unseen_withRegs v).popJump]
    exact agreeOnWritten_of_writes_none rfl fun _ => rfl
  | call nnn =>
    rw [exec_call] at h h'
    cases h; cases h'
    exact agreeOnWritten_of_writes_none ((unseen_withRegs v).pushJump s s.pc (zext16 nnn) ▸ rfl) fun _ => rfl
  | loadConst x _ | readDelayTimer x =>
    cases h; cases h'
    exact agreeOnWritten_setV s v rfl fun _ => eq_of_beq
  | randomAnd x nn =>
    cases h; cases h'
    exact agreeOnWritten_setV (s.callPort .rand) v rfl fun _ => eq_of_beq
  | skipEqConst x _ | skipNeqConst x _ | skipKeyPressed x | skipKeyNotPressed x | setDelayTimer x | setSoundTimer x
  | addToIndex x | loadFontSprite x =>
    have hx := hread x (beq_self_eq_true x)
    cases h; cases h'
    rw [hx]
    exact agreeOnWritten_of_writes_none rfl fun _ => rfl
  | jumpOffset nnn =>
    have h0 : (withRegs v s).getV 0 = s.getV 0 := hread 0 rfl
    cases h; cases h'
    rw [h0]
    exact agreeOnWritten_of_writes_none rfl fun _ => rfl
  | skipEqReg x y | skipNeqReg x y =>
    have hx := hread x (by simp [readsV])
    have hy := hread y (by simp [readsV])
    cases h; cases h'
    rw [hx, hy]
    exact agreeOnWritten_of_writes_none rfl fun _ => rfl
  | addConst x nn =>
    have hx := hread x (beq_self_eq_true x)
    cases h; cases h'
    exact agreeOnWritten_setV s v (by rw [hx]) fun _ => eq_of_beq
  | copy x y =>
    have hy := hread y (beq_self_eq_true y)
    cases h; cases h'
    exact agreeOnWritten_setV s v hy fun _ => eq_of_beq
  | orReg x y | andReg x y | xorReg x y =>
    have hx := hread x (by simp [readsV])
    have hy := hread y (by simp [readsV])
    cases h; cases h'
    exact agreeOnWritten_setV s v (by rw [hx, hy]) fun _ => eq_of_beq
  | addReg x y | subReg x y | subRegReverse x y =>
    have hx := hread x (by simp [readsV])
    have hy := hread y (by simp [readsV])
    cases h; cases h'
    exact agreeOnWritten_setFlagResult s v (by rw [hx, hy]) (by rw [hx, hy]) fun z hz => by simpa [writesV, vF] using hz
  | shiftRight x y =>
    have hsrc := shiftOperand_congr hread
    cases h; cases h'
    have hresult := congrArg (fun src : Byte => src >>> (1 : Nat)) hsrc
    exact agreeOnWritten_setFlagResult s v (congrArg _ hsrc) hresult fun z hz => by simpa [writesV, vF] using hz
  | shiftLeft x y =>
    have hsrc := shiftOperand_congr hread
    cases h; cases h'
    have hresult := congrArg (fun src : Byte => src <<< (1 : Nat)) hsrc
    exact agreeOnWritten_setFlagResult s v (congrArg _ hsrc) hresult fun z hz => by simpa [writesV, vF] using hz
  | storeBcd x =>
    have hx := hread x (beq_self_eq_true x)
    rw [exec_storeBcd] at h h'
    cases h; cases h'
    exact agreeOnWritten_store s v _ _ (congrArg bcdDigits hx) fun _ => rfl
  | storeRegisters x =>
    have hregs := getRegs_congr x.isLt fun z hz => hread z (decide_eq_true (Nat.le_of_lt_succ hz))
    rw [exec_storeRegisters] at h h'
    cases h; cases h'
    exact agreeOnWritten_store s v _ _ hregs fun _ => rfl
  | loadRegisters x =>
    rw [exec_loadRegisters] at h h'
    cases h; cases h'
    exact agreeOnWritten_accessAtI s v _ (agreeOnWritten_loadRegisters s v x)
  | draw x y n =>
    have hx := hread x (by simp [readsV])
    have hy := hread y (by simp [readsV])
    rw [exec_draw] at h h'
    cases h; cases h'
    rw [hx, hy]
    refine agreeOnWritten_accessAtI s v _ (agreeOnWritten_setV (s.callPort _) v rfl fun _ hz => ?_)
    exact eq_of_beq hz

/-- Settles O35: the two steps have the same operands, so they compute the same values. -/
theorem registersAreReadOnlyAsListed : Obligations.RegistersAreReadOnlyAsListed := by
  intro i s v hread
  obtain ⟨t, ht⟩ := exec_next i s
  obtain ⟨t', ht'⟩ := exec_next i (withRegs v s)
  exact ⟨t, t', ht, ht', agreeOnWritten_exec hread ht ht'⟩

end Sys2Proof
end

section
/-! SUPPORT. The reset content of memory; with it the statements about memory, reset and ROM load (20_memory.md R45, R56,
70_reset_and_hazards.md R148, R149). -/

namespace Sys2Proof

open Sys2Proof.Machine Sys2Proof.Safety

/-! ### The reset content of memory (70_reset_and_hazards.md R148, R150) -/

theorem length_fontData : fontData.length = 80 := rfl

theorem fontData_eq_unlisted (fb : Nat) {k : Nat} (hk : k < 80) : fontData[k]? = some (Memory.unlisted fb (fb + k)) := by
  rw [Memory.unlisted, if_pos (Nat.le_add_right fb k), Nat.add_sub_cancel_left, List.getD_eq_getElem?_getD,
    List.getElem?_eq_getElem (length_fontData.symm ▸ hk), Option.getD_some]

theorem unlisted_outside_font {fb a : Nat} (ha : a < fb ∨ fb + 80 ≤ a) : Memory.unlisted fb a = 0 := by
  rw [Memory.unlisted]
  split
  · exact List.getD_eq_default _ _ (by rw [length_fontData]; omega)
  · rfl

theorem readByte_of_mem_nil {s : State} (h : s.mem = []) (a : Nat) :
    s.readByte a = Memory.unlisted s.params.fontBase.val a := by
  rw [State.readByte, h]
  rfl

/-! ### The statements -/

/-- Settles O59: a write puts its byte at its address and leaves the others. -/
theorem readAfterWriteReturnsTheByte : Obligations.ReadAfterWriteReturnsTheByte := fun s a b =>
  ⟨by rw [State.readByte_writeByte, if_pos rfl], fun c hc => by rw [State.readByte_writeByte, if_neg hc]⟩

/-- Settles O60: the reads of a canonical memory say which cells it lists, and rising addresses say in which order. -/
theorem canonicalMemoryIsDeterminedByItsBytes : Obligations.CanonicalMemoryIsDeterminedByItsBytes := by
  intro fb m m' hm hm' hread
  have hirrefl : Std.Irrefl fun c d : Host.Cell => c.1 < d.1 := ⟨fun c => Nat.lt_irrefl c.1⟩
  have hasymm : Std.Antisymm fun c d : Host.Cell => c.1 < d.1 := ⟨fun _ _ h h' => absurd h' h.asymm⟩
  refine hm.1.eq_of_mem_iff hm'.1 fun c => ?_
  rw [Memory.mem_iff_read hm, Memory.mem_iff_read hm', hread]

/-- Settles O9: the fields of the reset state, whose memory lists nothing and so has its reset content. -/
theorem resetStateHasTheListedValues : Obligations.ResetStateHasTheListedValues := by
  have hbyte := readByte_of_mem_nil (s := State.reset) rfl
  refine ⟨State.hostReset_getV State.reset, rfl, rfl, rfl, rfl, rfl, rfl, rfl, rfl, fun a hlow hhigh => ?_,
    fun a ha => ?_, rfl⟩
  · rw [hbyte, fontData_eq_unlisted 0x50 (by omega), show 0x50 + (a - 0x50) = a by omega]
    rfl
  · rw [hbyte]
    exact unlisted_outside_font ha

/-- Settles O10: the same of a reset engine with any parameters. -/
theorem hostResetGivesTheResetState : Obligations.HostResetGivesTheResetState := by
  intro s hop
  have hbyte := readByte_of_mem_nil (s := s.takeOp.hostReset) rfl
  refine ⟨s.takeOp.hostReset, by rw [step_eq, hop]; rfl, State.hostReset_getV _, rfl, rfl, rfl, rfl, rfl, rfl, rfl, rfl,
    fun k hk => ?_, fun a ha => ?_, rfl, rfl, rfl⟩
  · rw [hbyte]
    exact fontData_eq_unlisted _ hk
  · rw [hbyte]
    exact unlisted_outside_font ha

/-- Settles O11: an accepted load is a run of byte writes over the reset state. -/
theorem romLoadCopiesOverTheResetStateOrIsRejected : Obligations.RomLoadCopiesOverTheResetStateOrIsRejected := by
  intro s bs hop
  refine ⟨loadRom bs s.takeOp, by rw [step_eq, hop]; rfl, fun hfits => ?_, fun hlarge => ?_⟩
  · obtain ⟨-, hanswer, heq⟩ | ⟨hlarge, -, -⟩ := loadRom_cases bs s.takeOp
    · rw [heq]
      refine ⟨hanswer, State.writeBytes_eq _ _ _, fun k hk => ?_, sameMemoryOutside_writeBytes _ romStart bs⟩
      have hget := List.getElem?_eq_getElem hk
      rw [hget, show 0x200 = romStart from rfl, readByte_writeBytes_of_getElem? _ romStart hget]
    · exact absurd hfits hlarge.not_ge
  · obtain ⟨hfits, -, -⟩ | ⟨-, hanswer, heq⟩ := loadRom_cases bs s.takeOp
    · exact absurd hlarge hfits.not_gt
    · exact ⟨hanswer, heq⟩

end Sys2Proof
end

section
/-! The statements about ticks and the host's other operations (40_cycle.md R75 to R84, 41_control.md R90,
60_exceptions.md R133, R136, 70_reset_and_hazards.md R152). -/

namespace Sys2Proof

open Sys2Proof.Machine Sys2Proof.Safety

/-! ### A tick that a latch turns away (R75) -/

theorem step_of_latched {s : State} (hop : s.nextOp = .tick) (hlatch : s.fault ≠ none ∨ s.wait ≠ none) :
    step s = .next { s with schedule := s.schedule.tail } := by
  rw [step_eq, hop]
  exact tick_gated (s := s.takeOp) (State.gated_eq_true.mpr hlatch)

/-! ### A tick that gets past the latches (R76) -/

theorem step_of_unlatched {s : State} (hop : s.nextOp = .tick) (hfault : s.fault = none) (hwait : s.wait = none) :
    step s = s.takeOp.consumeSkip.fetchExecute := by
  have hgate : s.takeOp.gated = false := State.gated_eq_false.mpr ⟨hfault, hwait⟩
  rw [step_eq, hop, HostOp.perform, tick, hgate]
  rfl

/-! ### A call with room, fetched and executed (41_control.md R89) -/

theorem step_of_fetches_call {s : State} {a : Word16} {nnn : Addr12} (hfetch : fetches s a (.call nnn))
    (hroom : s.stack.length < s.params.stackDepth.entries) :
    step s = .next { s with pc := zext16 nnn, skip := false, stack := (a + 2) :: s.stack, schedule := s.schedule.tail } := by
  rw [step_of_fetches hfetch, exec_call, pushJump_of_room (s := afterFetch s a) _ _ hroom]
  rfl

theorem step_of_fetches_ret {s : State} {a top : Word16} {rest : List Word16} (hfetch : fetches s a .ret)
    (hstack : s.stack = top :: rest) :
    step s = .next { s with pc := top, skip := false, stack := rest, schedule := s.schedule.tail } := by
  rw [step_of_fetches hfetch, exec_ret, popJump_of_cons (s := afterFetch s a) hstack]
  rfl

/-! ### A key event that completes a wait (60_exceptions.md R133) -/

theorem keyEvent_of_waiting {s : State} {x : Nibble} (k : Nibble) (hfault : s.fault = none) (hwait : s.wait = some x) :
    keyEvent k s = (s.setV x (keyByte k)).setWait none := by
  rw [keyEvent, hfault, hwait]

theorem keyEvent_of_idle {s : State} (k : Nibble) (hidle : s.fault ≠ none ∨ s.wait = none) : keyEvent k s = s := by
  obtain ⟨x, hfault, hwait, -⟩ | ⟨-, heq⟩ := keyEvent_cases k s
  · exact absurd hidle (by simp [hfault, hwait])
  · exact heq

/-- The key's value is in the register of the wait, and the other registers are as before. -/
theorem setV_keyByte_spec (s : State) (x k : Nibble) :
    ((s.setV x (keyByte k)).getV x).toNat = k.toNat ∧ SameRegsExcept [x] s (s.setV x (keyByte k)) :=
  ⟨by rw [getV_setV_self, toNat_keyByte], sameRegsExcept_setV s x _⟩

/-! ### The statements -/

/-- Settles O16: either latch gates the tick, and the answer names the fault first. -/
theorem tickWhileLatchedChangesNothing : Obligations.TickWhileLatchedChangesNothing := by
  refine ⟨fun s r hr => ⟨tick_gated ?_, ?_⟩, fun s x hfault hx => ⟨tick_gated ?_, ?_⟩, fun s => step_of_latched⟩
  · exact State.gated_eq_true.mpr (.inl (by simp [hr]))
  · rw [tickAnswer, hr]
  · exact State.gated_eq_true.mpr (.inr (by simp [hx]))
  · rw [tickAnswer, hfault, hx]
    rfl

/-- Settles O17: the range check of the fetch reports `max(a, 0x1000)`. -/
theorem fetchPastTheTopFaults : Obligations.FetchPastTheTopFaults := by
  intro s a hop hfault hwait ha habove
  have hbad : outOfRange s.takeOp.consumeSkip.pc 2 = some (BitVec.ofNat 16 (max a.toNat 0x1000)) := by
    rw [consumeSkip_takeOp, ← ha]
    exact outOfRange_some_of (by decide) (Nat.succ_lt_succ habove)
  refine ⟨_, step_of_fetch_outOfRange hop hfault hwait hbad, ?_, ?_⟩
  · rw [consumeSkip_takeOp, ← ha]
    rfl
  · rw [consumeSkip_takeOp, ← ha]
    rfl

/-- Settles O18: consuming the skip is all that the pending flag does to a tick, and every instruction but a control transfer
keeps `PC` at the fetch address plus 2. -/
theorem pendingSkipPassesOverOneWord : Obligations.PendingSkipPassesOverOneWord := by
  intro s hop hfault hwait hskip
  refine ⟨?_, fun i hfetch hret hcall => ?_⟩
  · rw [step_of_unlatched hop hfault hwait, consumeSkip_takeOp, hskip,
      step_of_unlatched (s := { s with pc := s.pc + 2, skip := false }) hop hfault hwait, consumeSkip_takeOp]
    rfl
  · obtain ⟨t, ht⟩ := exec_next i (afterFetch s (s.pc + 2))
    refine ⟨t, (step_of_fetches hfetch).trans ht, ?_⟩
    rw [exec_pc ht hcall hret]
    exact BitVec.add_assoc s.pc 2 2

/-- Settles O21: a fault and a key wait are latches, and a self-jump is fetched and sets `PC` to where it was. -/
theorem runEndIsLeftByNoTick : Obligations.RunEndIsLeftByNoTick := by
  intro s e he hop
  by_cases hlatch : s.fault ≠ none ∨ s.wait ≠ none
  · exact step_of_latched hop hlatch
  push Not at hlatch
  obtain ⟨hfault, hwait⟩ := hlatch
  rw [runEnd, hfault, hwait] at he
  obtain ⟨⟨hskip, htop, hword⟩, -⟩ := Option.ite_none_right_eq_some.mp he
  have hfetch : fetches s s.pc (.jump (s.pc.setWidth 12)) := by
    refine ⟨⟨hop, hfault, hwait, by rw [hskip]; rfl, Nat.le_of_lt_succ htop⟩, ?_⟩
    rw [← decode_encode (.jump (s.pc.setWidth 12)) rfl, ← hword]
    rfl
  have hpc : zext16 (s.pc.setWidth 12) = s.pc := by
    apply BitVec.eq_of_toNat_eq
    rw [toNat_zext16, BitVec.toNat_setWidth]
    exact Nat.mod_eq_of_lt (Nat.lt_of_succ_lt htop)
  rw [step_of_fetches hfetch, exec_jump, hpc, afterFetch, ← hskip]
  rfl

/-- Settles O26: the return pops what the call pushed. -/
theorem callThenReturnRestoresTheState : Obligations.CallThenReturnRestoresTheState := by
  intro s nnn hschedule hskip hfetch hreach hret hroom
  refine ⟨_, step_of_fetches_call hfetch hroom, ?_⟩
  obtain ⟨⟨-, hfault, hwait, -⟩, -⟩ := hfetch
  have hop : ({ s with schedule := s.schedule.tail } : State).nextOp = .tick := by
    rw [State.nextOp, hschedule]
    rfl
  rw [← toNat_zext16 nnn] at hreach hret
  have hfetchRet : fetches { s with pc := zext16 nnn, skip := false, stack := (s.pc + 2) :: s.stack,
                                    schedule := s.schedule.tail } (zext16 nnn) .ret :=
    ⟨⟨hop, hfault, hwait, rfl, hreach⟩, hret⟩
  rw [step_of_fetches_ret hfetchRet rfl, hschedule, ← hskip]
  rfl

/-- Settles O46: the latch that the instruction sets gates every tick, and it is the one a key event completes. -/
theorem blockOnKeyWaitsForAKeyEvent : Obligations.BlockOnKeyWaitsForAKeyEvent := by
  refine ⟨fun _ => decode_blockOnKey, fun x s => ⟨_, exec_blockOnKey s x, rfl, ?_, fun k hfault => ?_⟩⟩
  · exact tick_gated (State.gated_eq_true.mpr (.inr nofun))
  · obtain ⟨hkey, hsame⟩ := setV_keyByte_spec s x k
    rw [keyEvent_of_waiting (s := s.setWait (some x)) k hfault rfl]
    exact ⟨hkey, hsame, rfl⟩

/-- Settles O48, by the two ways a key event can go. -/
theorem keyEventCompletesOnlyAWait : Obligations.KeyEventCompletesOnlyAWait := by
  intro s k hop
  refine ⟨keyEvent k s.takeOp, by rw [step_eq, hop]; rfl, fun x hfault hwait => ?_, fun hidle => ?_⟩
  · obtain ⟨hkey, hsame⟩ := setV_keyByte_spec s.takeOp x k
    rw [keyEvent_of_waiting (s := s.takeOp) k hfault hwait]
    exact ⟨hkey, hsame, rfl⟩
  · exact keyEvent_of_idle (s := s.takeOp) k hidle

/-- Settles O49: the truncated difference is the timer after the tick, at zero as well. -/
theorem timerTickDecrementsBothTimers : Obligations.TimerTickDecrementsBothTimers := by
  intro s hop
  exact ⟨timerTick s.takeOp, by rw [step_eq, hop]; rfl, toNat_timer s.dt, toNat_timer s.st, rfl⟩

end Sys2Proof
end

section
/-! The statements about single instructions and pairs of them: return, the shifts, random-and, jump-offset, load-font-sprite,
draw, the key skips, and a store followed by a load or by a fetch (41_control.md R87, 42_alu.md R107 to R109,
43_index_memory.md R111, R113, R117, 44_io_timer.md R118 to R120, 20_memory.md R58). -/

namespace Sys2Proof

open Sys2Proof.Machine Sys2Proof.Safety

/-! ### The shifted operand (42_alu.md R107, R108) -/

theorem shiftOperand_eq_ite (source : Config.ShiftSource) (vx vy : Byte) :
    shiftOperand source vx vy = if source = .vy then vy else vx := by
  cases source <;> rfl

theorem toNat_shiftRight_one (b : Byte) : (b >>> 1).toNat = b.toNat / 2 := by
  rw [BitVec.toNat_ushiftRight, Nat.shiftRight_eq_div_pow, pow_one]

theorem toNat_shiftLeft_one (b : Byte) : (b <<< 1).toNat = b.toNat * 2 % 256 := by
  rw [BitVec.toNat_shiftLeft, Nat.shiftLeft_eq, pow_one]

/-! ### The sum of jump-offset (43_index_memory.md R111) -/

theorem toNat_zext16_add_byte16 (nnn : Addr12) (b : Byte) : (zext16 nnn + byte16 b).toNat = nnn.toNat + b.toNat := by
  rw [BitVec.toNat_add, toNat_zext16, toNat_byte16]
  omega

/-! ### The statements -/

/-- Settles O23, one clause for each outcome of the pop. -/
theorem returnPopsIntoPc : Obligations.ReturnPopsIntoPc := by
  refine ⟨fun _ => decode_ret, fun s a rest hstack => ?_, fun s hempty => ?_⟩
  · rw [exec_ret, popJump_of_cons hstack]
  · rw [exec_ret, popJump_of_nil hempty, State.raiseExec, State.raise]

/-- Settles O32: the flag and the result are the bit moved out and the shifted value of one operand. -/
theorem shiftsWriteResultAndBitMovedOut : Obligations.ShiftsWriteResultAndBitMovedOut := by
  refine ⟨fun _ => decode_shiftRight, fun _ => decode_shiftLeft, fun x y s src hsrc => ?right, fun x y s src hsrc => ?left⟩
  all_goals rw [← shiftOperand_eq_ite] at hsrc; subst hsrc
  case right =>
    refine ⟨_, exec_shiftRight s x y, ?_, fun hx => ?_, setFlagResult_frame s x _ _⟩
    · rw [getV_setFlagResult_self, toNat_shiftRight_one]
    · rw [getV_setFlagResult_flag s _ _ hx, toNat_lowBitFlag]
  case left =>
    refine ⟨_, exec_shiftLeft s x y, ?_, fun hx => ?_, setFlagResult_frame s x _ _⟩
    · rw [getV_setFlagResult_self, toNat_shiftLeft_one]
    · rw [getV_setFlagResult_flag s _ _ hx, toNat_highBitFlag]

/-- Settles O33: one port call and one write to the destination. -/
theorem randomAndMasksTheDrawnByte : Obligations.RandomAndMasksTheDrawnByte :=
  ⟨fun _ => decode_randomAnd, fun x nn s => ⟨_, exec_randomAnd s x nn, getV_setV_self _ x _, rfl,
    sameRegsExcept_setV (s.callPort .rand) x _, rfl, fun _ => rfl⟩⟩

/-- Settles O37: each is one write to `I`, of a sum that does not wrap. -/
theorem jumpOffsetAndLoadFontSpriteWriteIndexOnly : Obligations.JumpOffsetAndLoadFontSpriteWriteIndexOnly :=
  ⟨fun _ => decode_jumpOffset, fun _ => decode_loadFontSprite,
    fun nnn s => ⟨_, exec_jumpOffset s nnn, toNat_zext16_add_byte16 nnn (s.getV 0), rfl⟩,
    fun x s => ⟨_, exec_loadFontSprite s x, toNat_glyphAddr s.params.fontBase (s.getV x), rfl⟩⟩

/-- Settles O45: the query and the answer are those of the port. -/
theorem keySkipsWriteTheSkipFlag : Obligations.KeySkipsWriteTheSkipFlag := by
  refine ⟨fun _ => decode_skipKeyPressed, fun _ => decode_skipKeyNotPressed, ?_⟩
  rintro x s _ rfl
  exact ⟨exec_skipKeyPressed s x, exec_skipKeyNotPressed s x⟩

/-- Settles O44: without a fault the one access is in range, and `N = 0` reads no byte. -/
theorem drawPassesTheSpriteAndWritesCollision : Obligations.DrawPassesTheSpriteAndWritesCollision := by
  refine ⟨fun _ => decode_draw, fun x y n s hrange => ?drawn, fun x y n s hn habove => ?faulted⟩
  case drawn =>
    have hrange : n.toNat = 0 ∨ s.i.toNat + n.toNat ≤ memSize := by
      rw [memSize]
      obtain rfl | hrange := hrange
      · exact .inl rfl
      · omega
    refine ⟨_, s.readBytes s.i.toNat n.toNat, (exec_draw s x y n).trans (congrArg _ (s.accessAtI_inRange _ hrange)),
      s.length_readBytes _ _, fun k hk => ?_, rfl, getV_setV_self _ vF _, sameRegsExcept_setV (s.callPort _) vF _, rfl,
      fun _ => rfl⟩
    rw [State.getElem?_readBytes, if_pos hk]
  case faulted =>
    obtain ⟨k, hk⟩ : ∃ k, n.toNat = k + 1 := ⟨n.toNat - 1, by omega⟩
    rw [exec_draw, hk, accessAtI_eq_faultedAtI s _ (by omega)]

/-- Settles O41: the load reads the bytes the store wrote, from the same `I`. -/
theorem storeThenLoadRegistersKeepsThem : Obligations.StoreThenLoadRegistersKeepsThem := by
  intro x s hrange
  set t := s.writeBytes s.i.toNat (s.getRegs (x.toNat + 1)) with ht
  have hi : t.i = s.i := s.writeBytes_i _ _
  refine ⟨t, by rw [exec_storeRegisters, accessAtI_eq_effect s _ hrange], ?_, s.writeBytes_v _ _⟩
  rw [exec_loadRegisters, accessAtI_eq_effect t _ (hi ▸ hrange), State.setRegs_eq]
  have hv : (t.setRegs 0 (t.readBytes t.i.toNat (x.toNat + 1))).v = t.v := by
    refine State.v_ext fun z => ?_
    rw [getV_setRegs_readBytes t _ x.isLt]
    split
    · rename_i hz
      rw [hi, ht, readByte_writeBytes_of_getElem? s _ (getElem?_getRegs_toNat s hz), State.getV_writeBytes]
    · rfl
  rw [hv]

/-- Settles O42: the store leaves what a fetch takes as it was, and the two bytes at `PC` are `V[0]` and `V[1]`. -/
theorem storedInstructionIsFetchedNext : Obligations.StoredInstructionIsFetchedNext := by
  intro x s hop hfault hwait hskip hx hrange hpc
  refine ⟨_, by rw [exec_storeRegisters, accessAtI_eq_effect s _ hrange], ?_⟩
  generalize hbs : s.getRegs (x.toNat + 1) = bs
  have hbyte (z : Nibble) (hz : z.toNat < x.toNat + 1) :
      (s.writeBytes s.i.toNat bs).readByte (s.i.toNat + z.toNat) = s.getV z :=
    readByte_writeBytes_of_getElem? s _ (hbs ▸ getElem?_getRegs_toNat s hz)
  refine step_of_fetches ⟨⟨?op, ?fault, ?wait, ?addr, ?reach⟩, ?word⟩
  case op => rwa [State.nextOp, State.writeBytes_schedule]
  case fault => rwa [State.writeBytes_fault]
  case wait => rwa [State.writeBytes_wait]
  case addr => rw [State.writeBytes_skip, State.writeBytes_pc, hskip]; rfl
  case reach => rw [hpc]; omega
  case word => rw [hpc, ← hbyte 0#4 (Nat.succ_pos _), ← hbyte 1#4 (Nat.lt_succ_of_le hx)]; rfl

end Sys2Proof
end
